-- ==== Sys2Proof/Word.lean ====
section
/-! DEFINITION. The DEC64 value word (10_state.md R23) and the two port widths (00_scope.md R7). -/

namespace Sys2Proof

/-- A DEC64 value: 64 parallel bits, coefficient in bits 63:8 and exponent in bits 7:0 (R23, R41). -/
abbrev Word := BitVec 64

/-- The first operand port `req_a` and the result port `rsp_r` (R50, R51). -/
abbrev Port := BitVec 128

/-- The flag bundle `rsp_flags[3:0]` (R51, R52). -/
abbrev FlagBits := BitVec 4

end Sys2Proof
end

