-- ==== Sys2Proof/Config.lean ====
section
/-! DEFINITION. What the spec leaves to an implementation, as constants without a body: nothing in Lean can
evaluate one, so whatever is proved holds for every value of it. Each is named in notes/assumptions. -/

namespace Sys2Proof.Config

/-- Names, for each exponent, the binary32 pattern of `POW10_32` (R8, R141; D20 OPEN). Read only through
`Machine.pow10_32`, which imposes the constraints of R141. -/
opaque pow10Pattern32 : Int → Nat

/-- Names, for each exponent, the binary64 pattern of `POW10_64` (R8, R141; D20 OPEN). Read only through
`Machine.pow10_64`. -/
opaque pow10Pattern64 : Int → Nat

/-- `LATENCY - 1` (R196; D27 OPEN): the clock edges, beyond the first, between the acceptance of a request into
an idle unit and the first cycle in which its response is offered; it may depend on the opcode and the operands. -/
opaque extraLatency : BitVec 8 → Port → BitVec 64 → Nat

/-- The capacity of `pending` is one more than this (R33, R198; U14): at least 1. -/
opaque extraCapacity : Nat

/-- The capacity of `pending` (R33: "at least 1"). -/
def capacity : Nat := extraCapacity + 1

/-- FREE VALUE: the clock edges a request spends at the head of `pending` before its response is offered, when it
came to the head because an earlier response was delivered (R196 fixes `LATENCY` only for the other case). -/
opaque queuedWait : Nat → Nat

/-- FREE VALUE: for how many edges the unit goes on holding `req_ready` at 0 (R61: "for any finite time"). -/
opaque readyHold : Nat → Nat

/-- FREE VALUE: the level of `rsp_r` while `rsp_valid = 0` (R36, U11: "any value"). -/
opaque idleResult : Nat → Port

/-- FREE VALUE: the level of `rsp_flags` while `rsp_valid = 0` (R36, U11: "any value"). -/
opaque idleFlags : Nat → FlagBits

end Sys2Proof.Config
end

