-- ==== Sys2Proof/Machine/Value.lean ====
section
/-! DEFINITION. The value word: its fields, its classes and its canonical forms (00_scope.md R6, R10 to R13;
10_state.md R23 to R29). -/

namespace Sys2Proof.Machine

/-- `MINC = -2^55`, the least coefficient (R6). -/
abbrev MINC : Int := -36028797018963968

/-- `MAXC = 2^55 - 1`, the greatest coefficient (R6). -/
abbrev MAXC : Int := 36028797018963967

/-- `MINE`, the least exponent of a finite value (R6). -/
abbrev MINE : Int := -127

/-- `MAXE`, the greatest exponent (R6). -/
abbrev MAXE : Int := 127

/-- `c` is in the coefficient range (R6). -/
def inCoefRange (c : Int) : Bool := decide (MINC ≤ c ∧ c ≤ MAXC)

/-- `x` fits the signed 64-bit accumulator of ADD (R7, R100). -/
def inAccumulator (x : Int) : Bool := decide (-9223372036854775808 ≤ x ∧ x ≤ 9223372036854775807)

/-- `tdiv(x, y)`: the quotient truncated toward zero (R11). -/
def tdiv (x y : Int) : Int := Int.tdiv x y

/-- `trem(x, y)`: the remainder, zero or of the sign of `x` (R11). -/
def trem (x y : Int) : Int := x - y * tdiv x y

/-- `rha(c, d)`: round half away from zero on the discarded digit `d` (R12). -/
def rha (c d : Int) : Int := if 5 ≤ d then c + 1 else if d ≤ -5 then c - 1 else c

/-- `word(c, e) = wrap_56(c) ‖ wrap_8(e)` (R24). -/
def word (c e : Int) : Word := BitVec.ofInt 56 c ++ BitVec.ofInt 8 e

/-- `coef(w) = sext_56(w[63:8])` (R25). -/
def coef (w : Word) : Int := (w.extractLsb' 8 56).toInt

/-- `expo(w) = sext_8(w[7:0])` (R26). -/
def expo (w : Word) : Int := (w.extractLsb' 0 8).toInt

/-- The canonical `ZERO`, `(0, 0)` (R28). -/
def ZERO : Word := 0x0000000000000000#64

/-- The canonical `NAN`, `(0, -128)` (R28). -/
def NAN : Word := 0x0000000000000080#64

/-- `isnan(w)`: the exponent byte is `0x80`, whatever the coefficient (R27, R29). -/
def isnan (w : Word) : Bool := w.extractLsb' 0 8 == 0x80#8

/-- `iszero(w)`: the coefficient field is 0 and `w` is not NaN-classified (R27, R29). -/
def iszero (w : Word) : Bool := w.extractLsb' 8 56 == 0#56 && w.extractLsb' 0 8 != 0x80#8

end Sys2Proof.Machine
end

