-- ==== Sys2Proof/Machine/Flags.lean ====
section
/-! DEFINITION. The flag bundle `rsp_flags` (10_state.md R31, 30_encoding.md R52, 60_exceptions.md R181). -/

namespace Sys2Proof.Machine

/-- The flag set `F` that a rule's `return (w, F)` carries, a subset of `{OVF, UNF}` (R13). -/
structure FlagSet where
  ovf : Bool
  unf : Bool
deriving DecidableEq, Repr

/-- `{}` (R13). -/
def FlagSet.none : FlagSet := ⟨false, false⟩

/-- `{OVF}`: a magnitude overflow was resolved to NaN (R31). -/
def FlagSet.overflow : FlagSet := ⟨true, false⟩

/-- `{UNF}`: a magnitude underflow was resolved to Zero (R31). -/
def FlagSet.underflow : FlagSet := ⟨false, true⟩

/-- `F1 ∪ F2` (R101). -/
def FlagSet.union (f g : FlagSet) : FlagSet := ⟨f.ovf || g.ovf, f.unf || g.unf⟩

/-- What a rule with a DEC64 result returns: the word and the flag set (R13). -/
structure Answer where
  w : Word
  f : FlagSet
deriving DecidableEq, Repr

/-- The bundle `ILL ‖ UNF ‖ OVF ‖ NANF`, NANF in bit 0 (R52). -/
def flagBundle (ill unf ovf nanf : Bool) : FlagBits :=
  BitVec.ofBool ill ++ BitVec.ofBool unf ++ BitVec.ofBool ovf ++ BitVec.ofBool nanf

/-- The flags of a DEC64-word result: NANF is computed from the final word, OVF and UNF are the rule's, ILL is 0
(R52). -/
def wordFlags (p : Answer) : FlagBits := flagBundle false p.f.unf p.f.ovf (isnan p.w)

/-- The flags of a result that is no DEC64 word: all 0 (R52). -/
def plainFlags : FlagBits := flagBundle false false false false

/-- The flags of an unassigned opcode: ILL alone (R58). -/
def illFlags : FlagBits := flagBundle true false false false

end Sys2Proof.Machine
end

