-- ==== Sys2Proof/Syntax.lean ====
section
/-! DEFINITION. The 43 operations (R2, R55), one constructor per row of spec/opcode_table.json, each carrying its
operands already read as R54 says: `W`, `X` and `I` operands are integers, `D` operands words, `F` and `R` operands
bit patterns. Operand bits that a format ignores have no place here: no meaning can depend on them. -/

namespace Sys2Proof

/-- One request as the three ports carry it in one cycle (R50): the triple `(op, a, b)` of R33. -/
structure Request where
  op : BitVec 8
  a  : Port
  b  : BitVec 64
deriving DecidableEq, Repr

/-- One response as the two ports carry it in one cycle (R51). -/
structure Response where
  r     : Port
  flags : FlagBits
deriving DecidableEq, Repr

/-- The operations of the unit (R55). -/
inductive Instr where
  /-- PACK: canonicalizing constructor (R73). -/
  | pack (c e : Int)
  /-- RAW: raw construction (R71). -/
  | raw (c : BitVec 56) (e : BitVec 8)
  /-- COEF: coefficient accessor (R74). -/
  | coef (a : Word)
  /-- EXPO: exponent accessor (R75). -/
  | expo (a : Word)
  /-- ISNAN (R76). -/
  | isnan (a : Word)
  /-- ISZERO (R77). -/
  | iszero (a : Word)
  /-- EQ: equality (R90). -/
  | eq (a b : Word)
  /-- CMP: ordering (R91). -/
  | cmp (a b : Word)
  /-- ADD (R100). -/
  | add (a b : Word)
  /-- SUB (R101). -/
  | sub (a b : Word)
  /-- NEG (R102). -/
  | neg (a : Word)
  /-- MUL (R103). -/
  | mul (a b : Word)
  /-- DIV (R104). -/
  | div (a b : Word)
  /-- SIGN (R120). -/
  | sign (a : Word)
  /-- ABS (R121). -/
  | abs (a : Word)
  /-- ISINT (R122). -/
  | isint (a : Word)
  /-- FLOOR (R123). -/
  | floor (a : Word)
  /-- CEIL (R124). -/
  | ceil (a : Word)
  /-- ROUND to the target exponent `t` (R125). -/
  | round (a : Word) (t : Int)
  /-- TOF32 (R140). -/
  | tof32 (a : Word)
  /-- TOF64 (R142). -/
  | tof64 (a : Word)
  /-- FROMF32 (R143). -/
  | fromf32 (x : BitVec 32)
  /-- FROMF64 (R145). -/
  | fromf64 (x : BitVec 64)
  /-- FROMI8: from a signed 8-bit integer (R146). -/
  | fromi8 (v : Int)
  /-- FROMI16: from a signed 16-bit integer (R147). -/
  | fromi16 (v : Int)
  /-- FROMI32: from a signed 32-bit integer (R148). -/
  | fromi32 (v : Int)
  /-- FROMI64: from a signed 64-bit integer (R149). -/
  | fromi64 (v : Int)
  /-- FROMI128: from a signed 128-bit integer (R150). -/
  | fromi128 (v : Int)
  /-- FROMU8: from an unsigned 8-bit integer (R151). -/
  | fromu8 (v : Int)
  /-- FROMU16: from an unsigned 16-bit integer (R152). -/
  | fromu16 (v : Int)
  /-- FROMU32: from an unsigned 32-bit integer (R153). -/
  | fromu32 (v : Int)
  /-- FROMU64: from an unsigned 64-bit integer (R154). -/
  | fromu64 (v : Int)
  /-- FROMU128: from an unsigned 128-bit integer (R155). -/
  | fromu128 (v : Int)
  /-- TOI8: to a signed 8-bit integer (R156). -/
  | toi8 (a : Word)
  /-- TOI16: to a signed 16-bit integer (R157). -/
  | toi16 (a : Word)
  /-- TOI32: to a signed 32-bit integer (R158). -/
  | toi32 (a : Word)
  /-- TOI64: to a signed 64-bit integer (R159). -/
  | toi64 (a : Word)
  /-- TOI128: to a signed 128-bit integer (R160). -/
  | toi128 (a : Word)
  /-- TOU8: to an unsigned 8-bit integer (R161). -/
  | tou8 (a : Word)
  /-- TOU16: to an unsigned 16-bit integer (R162). -/
  | tou16 (a : Word)
  /-- TOU32: to an unsigned 32-bit integer (R163). -/
  | tou32 (a : Word)
  /-- TOU64: to an unsigned 64-bit integer (R164). -/
  | tou64 (a : Word)
  /-- TOU128: to an unsigned 128-bit integer (R165). -/
  | tou128 (a : Word)
deriving DecidableEq, Repr

end Sys2Proof
end

