-- ==== Sys2Proof/Machine/Operands.lean ====
section
/-! DEFINITION. Operand and result placement on the ports, one definition per type letter of R54 (30_encoding.md
R54, R57). -/

namespace Sys2Proof.Machine

/-- `D` on `req_a`: the word in bits 63:0, bits 127:64 ignored (R54). -/
def operandD (a : Port) : Word := a.extractLsb' 0 64

/-- `W` on `req_a`: `sext_128(req_a[127:0])` (R54). -/
def operandW (a : Port) : Int := a.toInt

/-- `X` on `req_b`: `sext_64(req_b[63:0])` (R54). -/
def operandX (b : BitVec 64) : Int := b.toInt

/-- `R` on `req_a`: the coefficient bits `req_a[55:0]` (R54). -/
def operandRa (a : Port) : BitVec 56 := a.extractLsb' 0 56

/-- `R` on `req_b`: the exponent bits `req_b[7:0]` (R54). -/
def operandRb (b : BitVec 64) : BitVec 8 := b.extractLsb' 0 8

/-- `I`, signed: `sext_N(req_a[N-1:0])`, higher bits ignored (R54, R57). -/
def operandSigned (n : Nat) (a : Port) : Int := (a.extractLsb' 0 n).toInt

/-- `I`, unsigned: `zext_N(req_a[N-1:0])`, higher bits ignored (R54, R57). -/
def operandUnsigned (n : Nat) (a : Port) : Int := ((a.extractLsb' 0 n).toNat : Int)

/-- `F` on `req_a`: the pattern in `req_a[N-1:0]`, higher bits ignored (R54). -/
def operandF (n : Nat) (a : Port) : BitVec n := a.extractLsb' 0 n

/-- `D` result: the word in `rsp_r[63:0]`, `rsp_r[127:64] = 0` (R54). -/
def placeD (w : Word) : Port := w.setWidth 128

/-- `I` result, a signed integer: `wrap_128(v)`, the sign extension to 128 bits (R54). -/
def placeSigned (v : Int) : Port := BitVec.ofInt 128 v

/-- `I` result, the signed reading of an `n`-bit field: sign-extended to 128 bits (R54, R169). -/
def placeSignedField (n : Nat) (v : Int) : Port := (BitVec.ofInt n v).signExtend 128

/-- `I` result, the unsigned reading of an `n`-bit field: zero-extended to 128 bits (R54, R169). -/
def placeUnsignedField (n : Nat) (v : Int) : Port := (BitVec.ofInt n v).setWidth 128

/-- `I` result, a truth value: 1 for true and 0 for false (R54). -/
def placeTruth (t : Bool) : Port := if t then 1#128 else 0#128

/-- `F` result: the pattern in `rsp_r[N-1:0]`, higher bits 0 (R54). -/
def placeF {n : Nat} (x : BitVec n) : Port := x.setWidth 128

end Sys2Proof.Machine
end

