-- ==== Sys2Proof/WellFormed.lean ====
section
/-! DEFINITION. Which instruction terms stand for a request: an integer operand must fit the field of the port
that carries it (R54, R57). Operands held as bit patterns fit by their type. -/

namespace Sys2Proof

/-- `v` is a value of a signed `n`-bit field (R10). -/
def signedFits (n : Nat) (v : Int) : Bool := decide (-(2 : Int) ^ (n - 1) ≤ v ∧ v < (2 : Int) ^ (n - 1))

/-- `v` is a value of an unsigned `n`-bit field (R10). -/
def unsignedFits (n : Nat) (v : Int) : Bool := decide (0 ≤ v ∧ v < (2 : Int) ^ n)

/-- The integer operands of `i` fit their fields: `W` 128 bits, `X` 64 bits, `I` the opcode's width (R54, R56). -/
def Instr.wellFormed (i : Instr) : Bool :=
  match i with
  | .pack c e => signedFits 128 c && signedFits 64 e
  | .raw _ _ => true
  | .coef _ => true
  | .expo _ => true
  | .isnan _ => true
  | .iszero _ => true
  | .eq _ _ => true
  | .cmp _ _ => true
  | .add _ _ => true
  | .sub _ _ => true
  | .neg _ => true
  | .mul _ _ => true
  | .div _ _ => true
  | .sign _ => true
  | .abs _ => true
  | .isint _ => true
  | .floor _ => true
  | .ceil _ => true
  | .round _ t => signedFits 64 t
  | .tof32 _ => true
  | .tof64 _ => true
  | .fromf32 _ => true
  | .fromf64 _ => true
  | .fromi8 v => signedFits 8 v
  | .fromi16 v => signedFits 16 v
  | .fromi32 v => signedFits 32 v
  | .fromi64 v => signedFits 64 v
  | .fromi128 v => signedFits 128 v
  | .fromu8 v => unsignedFits 8 v
  | .fromu16 v => unsignedFits 16 v
  | .fromu32 v => unsignedFits 32 v
  | .fromu64 v => unsignedFits 64 v
  | .fromu128 v => unsignedFits 128 v
  | .toi8 _ => true
  | .toi16 _ => true
  | .toi32 _ => true
  | .toi64 _ => true
  | .toi128 _ => true
  | .tou8 _ => true
  | .tou16 _ => true
  | .tou32 _ => true
  | .tou64 _ => true
  | .tou128 _ => true

end Sys2Proof
end

