-- ==== Sys2Proof/Decode.lean ====
section
/-! DEFINITION. The request bundle (30_encoding.md R50), the opcode map read both ways (R55, R56, R58): `decode`
takes a request to its operation and rejects the unassigned opcodes by name, `encode` writes an operation's request
with every ignored bit 0. -/

namespace Sys2Proof

open Sys2Proof.Machine

/-- Why a request names no operation. -/
inductive DecodeError where
  /-- `req_op` is not in the table of R55 (R58). -/
  | unassignedOpcode (op : BitVec 8)
deriving DecidableEq, Repr

/-- The three ports read from the 200-bit bundle: `op` in bits 199:192, `b` in 191:128, `a` in 127:0 (R50). -/
def Request.ofBundle (x : BitVec 200) : Request :=
  ⟨x.extractLsb' 192 8, x.extractLsb' 0 128, x.extractLsb' 128 64⟩

/-- The 200-bit bundle `op ‖ b ‖ a` of a request (R50). -/
def Request.bundle (q : Request) : BitVec 200 := q.op ++ q.b ++ q.a

/-- The operation a request names, its operands read as its format says (R53, R54, R55, R57); an opcode outside the
table is rejected before the operands are looked at (R58, R186). -/
def decode (q : Request) : Except DecodeError Instr :=
  match q.op.toNat with
  | 0x10 => .ok (.pack (operandW q.a) (operandX q.b))
  | 0x11 => .ok (.raw (operandRa q.a) (operandRb q.b))
  | 0x12 => .ok (.coef (operandD q.a))
  | 0x13 => .ok (.expo (operandD q.a))
  | 0x14 => .ok (.isnan (operandD q.a))
  | 0x15 => .ok (.iszero (operandD q.a))
  | 0x20 => .ok (.eq (operandD q.a) q.b)
  | 0x21 => .ok (.cmp (operandD q.a) q.b)
  | 0x30 => .ok (.add (operandD q.a) q.b)
  | 0x31 => .ok (.sub (operandD q.a) q.b)
  | 0x32 => .ok (.neg (operandD q.a))
  | 0x33 => .ok (.mul (operandD q.a) q.b)
  | 0x34 => .ok (.div (operandD q.a) q.b)
  | 0x40 => .ok (.sign (operandD q.a))
  | 0x41 => .ok (.abs (operandD q.a))
  | 0x42 => .ok (.isint (operandD q.a))
  | 0x43 => .ok (.floor (operandD q.a))
  | 0x44 => .ok (.ceil (operandD q.a))
  | 0x45 => .ok (.round (operandD q.a) (operandX q.b))
  | 0x50 => .ok (.tof32 (operandD q.a))
  | 0x51 => .ok (.tof64 (operandD q.a))
  | 0x52 => .ok (.fromf32 (operandF 32 q.a))
  | 0x53 => .ok (.fromf64 (operandF 64 q.a))
  | 0x60 => .ok (.fromi8 (operandSigned 8 q.a))
  | 0x61 => .ok (.fromi16 (operandSigned 16 q.a))
  | 0x62 => .ok (.fromi32 (operandSigned 32 q.a))
  | 0x63 => .ok (.fromi64 (operandSigned 64 q.a))
  | 0x64 => .ok (.fromi128 (operandSigned 128 q.a))
  | 0x68 => .ok (.fromu8 (operandUnsigned 8 q.a))
  | 0x69 => .ok (.fromu16 (operandUnsigned 16 q.a))
  | 0x6A => .ok (.fromu32 (operandUnsigned 32 q.a))
  | 0x6B => .ok (.fromu64 (operandUnsigned 64 q.a))
  | 0x6C => .ok (.fromu128 (operandUnsigned 128 q.a))
  | 0x70 => .ok (.toi8 (operandD q.a))
  | 0x71 => .ok (.toi16 (operandD q.a))
  | 0x72 => .ok (.toi32 (operandD q.a))
  | 0x73 => .ok (.toi64 (operandD q.a))
  | 0x74 => .ok (.toi128 (operandD q.a))
  | 0x78 => .ok (.tou8 (operandD q.a))
  | 0x79 => .ok (.tou16 (operandD q.a))
  | 0x7A => .ok (.tou32 (operandD q.a))
  | 0x7B => .ok (.tou64 (operandD q.a))
  | 0x7C => .ok (.tou128 (operandD q.a))
  | _ => .error (.unassignedOpcode q.op)

/-- The request that stands for an operation (R62): its opcode (R55), each operand in the low bits of its port, and
0 in every bit that the format ignores or that no operand uses. -/
def encode (i : Instr) : Request :=
  match i with
  | .pack c e => ⟨0x10#8, BitVec.ofInt 128 c, BitVec.ofInt 64 e⟩
  | .raw c e => ⟨0x11#8, c.setWidth 128, e.setWidth 64⟩
  | .coef a => ⟨0x12#8, a.setWidth 128, 0#64⟩
  | .expo a => ⟨0x13#8, a.setWidth 128, 0#64⟩
  | .isnan a => ⟨0x14#8, a.setWidth 128, 0#64⟩
  | .iszero a => ⟨0x15#8, a.setWidth 128, 0#64⟩
  | .eq a b => ⟨0x20#8, a.setWidth 128, b⟩
  | .cmp a b => ⟨0x21#8, a.setWidth 128, b⟩
  | .add a b => ⟨0x30#8, a.setWidth 128, b⟩
  | .sub a b => ⟨0x31#8, a.setWidth 128, b⟩
  | .neg a => ⟨0x32#8, a.setWidth 128, 0#64⟩
  | .mul a b => ⟨0x33#8, a.setWidth 128, b⟩
  | .div a b => ⟨0x34#8, a.setWidth 128, b⟩
  | .sign a => ⟨0x40#8, a.setWidth 128, 0#64⟩
  | .abs a => ⟨0x41#8, a.setWidth 128, 0#64⟩
  | .isint a => ⟨0x42#8, a.setWidth 128, 0#64⟩
  | .floor a => ⟨0x43#8, a.setWidth 128, 0#64⟩
  | .ceil a => ⟨0x44#8, a.setWidth 128, 0#64⟩
  | .round a t => ⟨0x45#8, a.setWidth 128, BitVec.ofInt 64 t⟩
  | .tof32 a => ⟨0x50#8, a.setWidth 128, 0#64⟩
  | .tof64 a => ⟨0x51#8, a.setWidth 128, 0#64⟩
  | .fromf32 x => ⟨0x52#8, x.setWidth 128, 0#64⟩
  | .fromf64 x => ⟨0x53#8, x.setWidth 128, 0#64⟩
  | .fromi8 v => ⟨0x60#8, (BitVec.ofInt 8 v).setWidth 128, 0#64⟩
  | .fromi16 v => ⟨0x61#8, (BitVec.ofInt 16 v).setWidth 128, 0#64⟩
  | .fromi32 v => ⟨0x62#8, (BitVec.ofInt 32 v).setWidth 128, 0#64⟩
  | .fromi64 v => ⟨0x63#8, (BitVec.ofInt 64 v).setWidth 128, 0#64⟩
  | .fromi128 v => ⟨0x64#8, (BitVec.ofInt 128 v).setWidth 128, 0#64⟩
  | .fromu8 v => ⟨0x68#8, (BitVec.ofInt 8 v).setWidth 128, 0#64⟩
  | .fromu16 v => ⟨0x69#8, (BitVec.ofInt 16 v).setWidth 128, 0#64⟩
  | .fromu32 v => ⟨0x6a#8, (BitVec.ofInt 32 v).setWidth 128, 0#64⟩
  | .fromu64 v => ⟨0x6b#8, (BitVec.ofInt 64 v).setWidth 128, 0#64⟩
  | .fromu128 v => ⟨0x6c#8, (BitVec.ofInt 128 v).setWidth 128, 0#64⟩
  | .toi8 a => ⟨0x70#8, a.setWidth 128, 0#64⟩
  | .toi16 a => ⟨0x71#8, a.setWidth 128, 0#64⟩
  | .toi32 a => ⟨0x72#8, a.setWidth 128, 0#64⟩
  | .toi64 a => ⟨0x73#8, a.setWidth 128, 0#64⟩
  | .toi128 a => ⟨0x74#8, a.setWidth 128, 0#64⟩
  | .tou8 a => ⟨0x78#8, a.setWidth 128, 0#64⟩
  | .tou16 a => ⟨0x79#8, a.setWidth 128, 0#64⟩
  | .tou32 a => ⟨0x7a#8, a.setWidth 128, 0#64⟩
  | .tou64 a => ⟨0x7b#8, a.setWidth 128, 0#64⟩
  | .tou128 a => ⟨0x7c#8, a.setWidth 128, 0#64⟩

/-- The operation decoded from the low `nbits` bits of `w`, numbered as spec/opcode_table.json numbers the bundle.
The ports are parallel, so there is no byte order to apply (R41). -/
def decodeTableWord (nbits w : Nat) : Option Instr :=
  match decode (Request.ofBundle (BitVec.ofNat 200 (w % 2 ^ nbits))) with
  | .ok i => some i
  | .error _ => none

end Sys2Proof
end

