-- ==== Sys2Proof/Machine/State.lean ====
section
/-! DEFINITION. The state of the unit and of its ports (10_state.md R33 to R36, 30_encoding.md R61,
70_reset_and_hazards.md R190). The unit has no register, no program counter and no memory (R20 to R22, R40): its one
piece of state is the queue `pending`, beside the levels it drives on its output ports. -/

namespace Sys2Proof.Machine

/-- The inputs sampled at one rising edge of `clk` (R61, R190). -/
structure PortInputs where
  rst      : Bool
  reqValid : Bool
  req      : Request
  rspReady : Bool
deriving DecidableEq, Repr

/-- The state. `pending` and `rspValid` are the spec's (R33, R36); `rspR`, `rspFlags` and `reqReady` are the levels
of the output ports (R51, R61). The rest is the MODEL's own, listed as such in INVENTORY.md: `wait`, `hold` and
`tick` carry the implementation's timing, `inputs` is what the host will drive, `accepted` and `delivered` record
what crossed the ports since the last reset. -/
structure State where
  /-- Requests accepted and not yet answered, in order of acceptance (R33). -/
  pending   : List Request
  /-- `rsp_valid`: the response to the head of `pending` is offered (R36, R61). -/
  rspValid  : Bool
  /-- `rsp_r[127:0]` (R51). -/
  rspR      : Port
  /-- `rsp_flags[3:0]` (R51, R52). -/
  rspFlags  : FlagBits
  /-- `req_ready` (R61). -/
  reqReady  : Bool
  /-- MODEL: clock edges still to pass before the response to the head of `pending` is offered (R196). -/
  wait      : Nat
  /-- MODEL: clock edges for which `req_ready` is still held at 0 (R61). -/
  hold      : Nat
  /-- MODEL: clock edges passed; it indexes the free values of Config. -/
  tick      : Nat
  /-- MODEL: what the host drives at the coming rising edges of `clk`, the next one first (R61). -/
  inputs    : List PortInputs
  /-- MODEL: the requests accepted since the last reset, oldest first (R46). -/
  accepted  : List Request
  /-- MODEL: the responses delivered since the last reset, oldest first (R46). -/
  delivered : List Response
deriving DecidableEq, Repr

/-- Why the unit stops with a fault: it never does. "No operation of the unit raises an exception, traps, aborts,
stalls for ever or leaves the unit in an error state" (R180), so the type has no constructor and nobody raises one. -/
inductive Fault where
deriving DecidableEq, Repr

/-- Why the model gives no meaning. -/
inductive Refusal where
  /-- Raised by an arm of `exec` for an instruction without a meaning; safe. No arm raises it: all 43 operations
  have their meaning. -/
  | notModelled (mnemonic : String)
deriving DecidableEq, Repr

/-- The unit right after reset (R36, R190): `pending` empty, `rsp_valid` 0, `req_ready` 0. The levels of `rsp_r` and
`rsp_flags`, which R36 leaves unspecified, and the model's own fields are DESIGN CHOICE (notes/assumptions/1.md). -/
def State.reset : State where
  pending   := []
  rspValid  := false
  rspR      := 0#128
  rspFlags  := 0#4
  reqReady  := false
  wait      := 0
  hold      := 0
  tick      := 0
  inputs    := []
  accepted  := []
  delivered := []

end Sys2Proof.Machine
end

