-- ==== Sys2Proof/Machine/Ops.lean ====
section
/-! DEFINITION. The named operations over the state: offering a response, and what one rising edge of `clk` does
(30_encoding.md R58, R61; 20_memory.md R43, R46; 70_reset_and_hazards.md R190, R195, R196, R198). There is no
exception to take and none to return from (60_exceptions.md R180, R187): an error is a value and a flag of the
response. -/

namespace Sys2Proof.Machine

/-- Offer a response: `rsp_valid` rises with the bundle `(r, flags)` (R61). -/
def State.offer (s : State) (r : Port) (flags : FlagBits) : State :=
  { s with rspValid := true, rspR := r, rspFlags := flags }

/-- Answer with a DEC64 word (result type `D`, R52, R54). -/
def answerD (p : Answer) (s : State) : Host.Outcome State Fault Refusal :=
  .next (s.offer (placeD p.w) (wordFlags p))

/-- Answer with an integer, a truth value, a code or a binary float already placed on the port (result types `I` and
`F`, R52, R54). -/
def answerPlain (r : Port) (s : State) : Host.Outcome State Fault Refusal :=
  .next (s.offer r plainFlags)

/-- Answer an unassigned opcode: `NAN` in the low 64 bits, ILL alone (R58). -/
def answerUnassigned (s : State) : Host.Outcome State Fault Refusal :=
  .next (s.offer (placeD NAN) illFlags)

/-- The request to run now: the head of `pending`, once its latency has passed and no response is offered
(R33, R196, R198). -/
def State.toRun (s : State) : Option Request :=
  if s.rspValid = false ∧ s.wait = 0 then s.pending.head? else none

/-- The inputs of an edge for which the host's schedule gives none: nothing is asserted (DESIGN CHOICE,
notes/assumptions/4.md). -/
def idleInputs : PortInputs := ⟨false, false, ⟨0#8, 0#128, 0#64⟩, false⟩

/-- The inputs sampled at the next rising edge (R61). -/
def State.sampled (s : State) : PortInputs := s.inputs.headD idleInputs

/-- A request is accepted at this edge: `req_valid` and `req_ready` are both 1 (R61). -/
def State.accepts (s : State) : Bool := s.sampled.reqValid && s.reqReady

/-- The response is delivered at this edge: `rsp_valid` and `rsp_ready` are both 1 (R61). -/
def State.delivers (s : State) : Bool := s.rspValid && s.sampled.rspReady

/-- `pending` after an edge without reset: the head is removed when its response is delivered, the accepted request
is appended (R33). -/
def State.pendingNext (s : State) : List Request :=
  (if s.delivers then s.pending.tail else s.pending) ++ (if s.accepts then [s.sampled.req] else [])

/-- The countdown to the next response (R196): a request that comes to the head by its own acceptance takes its
`LATENCY`, one that comes to the head by a delivery takes a free number of edges, otherwise one edge has passed. -/
def State.waitNext (s : State) : Nat :=
  match (if s.delivers then s.pending.tail else s.pending) with
  | [] =>
    if s.accepts then Config.extraLatency s.sampled.req.op s.sampled.req.a s.sampled.req.b else 0
  | _ :: _ => if s.delivers then Config.queuedWait s.tick else s.wait - 1

/-- The countdown for which `req_ready` stays 0 (R61): it runs down to 0 without the host doing anything, and once
`req_ready` has been 1 the unit may lower it again for a free number of edges. -/
def State.holdNext (s : State) : Nat :=
  if s.hold = 0 then (if s.reqReady then Config.readyHold s.tick else 0) else s.hold - 1

/-- A rising edge with `rst = 1` (R190): the queue is emptied, `rsp_valid` and `req_ready` become 0, nothing is
accepted and nothing delivered. -/
def State.resetEdge (s : State) : State :=
  { s with
    pending   := []
    rspValid  := false
    rspR      := Config.idleResult s.tick
    rspFlags  := Config.idleFlags s.tick
    reqReady  := false
    wait      := 0
    hold      := Config.readyHold s.tick
    tick      := s.tick + 1
    inputs    := s.inputs.tail
    accepted  := []
    delivered := [] }

/-- A rising edge with `rst = 0` (R61): at most one request is accepted and at most one response delivered, each
whole (R43); an offered response stays until it is delivered, and without one the levels of `rsp_r` and `rsp_flags`
are free values (R36); `req_ready` is 1 next when the queue has room and the
unit does not hold it back. -/
def State.portEdge (s : State) : State :=
  { s with
    pending   := s.pendingNext
    rspValid  := s.rspValid && !s.delivers
    rspR      := if s.rspValid && !s.delivers then s.rspR else Config.idleResult s.tick
    rspFlags  := if s.rspValid && !s.delivers then s.rspFlags else Config.idleFlags s.tick
    reqReady  := decide (s.holdNext = 0 ∧ s.pendingNext.length < Config.capacity)
    wait      := s.waitNext
    hold      := s.holdNext
    tick      := s.tick + 1
    inputs    := s.inputs.tail
    accepted  := s.accepted ++ (if s.accepts then [s.sampled.req] else [])
    delivered := s.delivered ++ (if s.delivers then [⟨s.rspR, s.rspFlags⟩] else []) }

/-- One rising edge of `clk` (R61, R190). -/
def State.clockEdge (s : State) : State :=
  if s.sampled.rst then s.resetEdge else s.portEdge

end Sys2Proof.Machine
end

