-- ==== Sys2Proof/Machine/Pack.lean ====
section
/-! DEFINITION. The canonicalizing constructor `pack` and the two loops it shares with the other families
(40_packing.md R70, R197). Every loop recurses on the number of steps it may still take, so none needs a bound that
the rule does not have. -/

namespace Sys2Proof.Machine

/-- Multiply by ten while the product still `fits`, at most `k` times: the product, and how many of the `k`
multiplications were not made. -/
def scaleUp (fits : Int → Bool) : Nat → Int → Int × Nat
  | 0, c => (c, 0)
  | k + 1, c => if fits (10 * c) then scaleUp fits k (10 * c) else (c, k + 1)

/-- Step 3 of `pack`, with `k` increments of the exponent left before it exceeds `MAXE`: divide by ten until the
quotient is in coefficient range; `none` when the exponent passes `MAXE`, which is tested first (R70, D11).
Otherwise the quotient, the last discarded digit and the increments left. -/
def liftSteps : Nat → Int → Option (Int × Int × Nat)
  | 0, _ => none
  | k + 1, c => if inCoefRange (tdiv c 10) then some (tdiv c 10, trem c 10, k) else liftSteps k (tdiv c 10)

/-- Step 3 of `pack` and its rounding: the new coefficient and exponent, or `none` on overflow (R70). -/
def liftRound (c e : Int) : Option (Int × Int) :=
  match liftSteps (MAXE - e).toNat c with
  | none => none
  | some (q, d, k) => some (rha q d, MAXE - k)

/-- Step 5 of `pack`: `k` divisions by ten without rounding, ending early at 0 (R70). -/
def dropSteps : Nat → Int → Int
  | 0, c => c
  | k + 1, c => if c = 0 then 0 else dropSteps k (tdiv c 10)

/-- Steps 2, 4 and 5 of `pack`, for a coefficient in range and not 0 (R70). -/
def packExponent (c e : Int) : Answer :=
  if MAXE < e then
    match scaleUp inCoefRange (e - MAXE).toNat c with
    | (c', 0) => ⟨word c' MAXE, FlagSet.none⟩
    | (_, _ + 1) => ⟨NAN, FlagSet.overflow⟩
  else if e < MINE then
    if dropSteps (MINE - e).toNat c = 0 then ⟨ZERO, FlagSet.underflow⟩
    else ⟨word (dropSteps (MINE - e).toNat c) MINE, FlagSet.none⟩
  else ⟨word c e, FlagSet.none⟩

/-- `pack(c, e)` on all integers (R70). A rounding that carries the coefficient out of range by one unit lifts once
more; that second lift always leaves it in range (`Laws.Pack`). -/
def pack (c e : Int) : Answer :=
  if c = 0 then ⟨ZERO, FlagSet.none⟩
  else if inCoefRange c then packExponent c e
  else
    match liftRound c e with
    | none => ⟨NAN, FlagSet.overflow⟩
    | some (c1, e1) =>
      if inCoefRange c1 then packExponent c1 e1
      else
        match liftRound c1 e1 with
        | none => ⟨NAN, FlagSet.overflow⟩
        | some (c2, e2) => packExponent c2 e2

end Sys2Proof.Machine
end

