-- ==== Sys2Proof/Machine/Arithmetic.lean ====
section
/-! DEFINITION. ADD, SUB, NEG, MUL and DIV (42_arithmetic.md R100 to R104). -/

namespace Sys2Proof.Machine

/-- ADD with different exponents, `hw` the word with the larger one: scale its coefficient down to the smaller
exponent as far as the 64-bit accumulator allows, then drop digits of the other (R100, D13). -/
def addAligned (hw : Word) (hc he lc le : Int) : Answer :=
  if lc = 0 then ⟨hw, FlagSet.none⟩
  else
    match scaleUp inAccumulator (he - le).toNat hc with
    | (hc', k) => pack (hc' + tdiv lc (10 ^ k)) (le + k)

/-- The result of ADD (R100). -/
def add (a b : Word) : Answer :=
  if isnan a || isnan b then ⟨NAN, FlagSet.none⟩
  else if expo a = expo b then
    if inCoefRange (coef a + coef b) then ⟨word (coef a + coef b) (expo a), FlagSet.none⟩
    else pack (coef a + coef b) (expo a)
  else if expo b < expo a then addAligned a (coef a) (expo a) (coef b) (expo b)
  else addAligned b (coef b) (expo b) (coef a) (expo a)

/-- The result of NEG (R102). -/
def neg (a : Word) : Answer :=
  if isnan a then ⟨NAN, FlagSet.none⟩
  else if coef a = 0 then ⟨ZERO, FlagSet.none⟩
  else if coef a = MINC then pack (-MINC) (expo a)
  else ⟨word (-coef a) (expo a), FlagSet.none⟩

/-- The result of SUB: `a + (-b)`, the flags of both steps (R101). -/
def sub (a b : Word) : Answer :=
  if isnan a || isnan b then ⟨NAN, FlagSet.none⟩
  else ⟨(add a (neg b).w).w, (neg b).f.union (add a (neg b).w).f⟩

/-- Loop (a) of MUL, also the loop of the from-integer template: while the coefficient is out of range or the
exponent below `MINE`, divide by ten, keeping the last discarded digit (R103, R166). The first argument bounds the
number of steps; `liftBound` is enough. -/
def liftToRange : Nat → Int → Int → Int → Int × Int × Int
  | 0, p, e, d => (p, e, d)
  | n + 1, p, e, d =>
    if inCoefRange p && decide (MINE ≤ e) then (p, e, d) else liftToRange n (tdiv p 10) (e + 1) (trem p 10)

/-- A number of divisions by ten after which `p` is 0 and `e` is at least `MINE`. -/
def liftBound (p e : Int) : Nat := p.natAbs.log2 + 1 + (MINE - e).toNat

/-- The end of MUL, after loop (a): loop (b), then the rounding on the digit `d` of loop (a), stale or not
(R103 corner case (g)). -/
def mulFinish (p e d : Int) : Answer :=
  match scaleUp inCoefRange (e - MAXE).toNat p with
  | (_, _ + 1) => ⟨NAN, FlagSet.overflow⟩
  | (p', 0) => if rha p' d = 0 then ⟨ZERO, FlagSet.underflow⟩ else pack (rha p' d) (min e MAXE)

/-- The result of MUL (R103). -/
def mul (a b : Word) : Answer :=
  if isnan a || isnan b then ⟨NAN, FlagSet.none⟩
  else if iszero a || iszero b then ⟨ZERO, FlagSet.none⟩
  else
    match liftToRange (liftBound (coef a * coef b) (expo a + expo b)) (coef a * coef b) (expo a + expo b) 0 with
    | (p, e, d) => mulFinish p e d

/-- The loop of DIV: while there is a remainder and the next quotient still fits, scale the dividend by ten and take
one from the exponent; the first argument bounds the number of steps (R104, D16). -/
def divExtend : Nat → Int → Int → Int → Int → Int × Int
  | 0, _, _, q, e => (q, e)
  | k + 1, n, v, q, e =>
    if n - q * v = 0 then (q, e)
    else if inCoefRange (tdiv (10 * n) v) then divExtend k (10 * n) v (tdiv (10 * n) v) (e - 1)
    else (q, e)

/-- "the loop runs at most 34 times" (R104). -/
def divSteps : Nat := 34

/-- The end of DIV: the range test on the extended exponent, without rescaling (R104). -/
def divFinish (q e : Int) : Answer :=
  if MAXE < e then ⟨NAN, FlagSet.overflow⟩
  else if e < MINE then ⟨ZERO, FlagSet.underflow⟩
  else pack q e

/-- The result of DIV (R104). -/
def div (a b : Word) : Answer :=
  if isnan a || isnan b then ⟨NAN, FlagSet.none⟩
  else if iszero b then ⟨NAN, FlagSet.none⟩
  else if iszero a then ⟨ZERO, FlagSet.none⟩
  else
    match divExtend divSteps (coef a) (coef b) (tdiv (coef a) (coef b)) (expo a - expo b) with
    | (q, e) => divFinish q e

/-- ADD (R100). -/
def execAdd (a b : Word) (s : State) : Host.Outcome State Fault Refusal := answerD (add a b) s

/-- SUB (R101). -/
def execSub (a b : Word) (s : State) : Host.Outcome State Fault Refusal := answerD (sub a b) s

/-- NEG (R102). -/
def execNeg (a : Word) (s : State) : Host.Outcome State Fault Refusal := answerD (neg a) s

/-- MUL (R103). -/
def execMul (a b : Word) (s : State) : Host.Outcome State Fault Refusal := answerD (mul a b) s

/-- DIV (R104). -/
def execDiv (a b : Word) (s : State) : Host.Outcome State Fault Refusal := answerD (div a b) s

end Sys2Proof.Machine
end

