-- ==== Sys2Proof/Machine/Comparison.lean ====
section
/-! DEFINITION. EQ and CMP, both through the subtraction of R101, its flags discarded (41_comparison.md R90, R91). -/

namespace Sys2Proof.Machine

/-- The truth value of EQ (R90). -/
def eqWords (a b : Word) : Bool :=
  if a = b then true
  else if iszero a && iszero b then true
  else iszero (sub a b).w

/-- The codes of CMP (R91, D12). -/
inductive Ordering4 where
  | equal
  | greater
  | less
  | unordered
deriving DecidableEq, Repr

/-- The 2-bit code, zero-extended (R91). -/
def placeOrdering (o : Ordering4) : Port :=
  match o with
  | .equal => 0#128
  | .greater => 1#128
  | .less => 2#128
  | .unordered => 3#128

/-- The order of CMP (R91): the sign of the difference, and Less when the difference overflows. -/
def cmpWords (a b : Word) : Ordering4 :=
  if a = b then .equal
  else if isnan a || isnan b then .unordered
  else if iszero (sub a b).w then .equal
  else if 0 < coef (sub a b).w then .greater
  else .less

/-- EQ (R90). -/
def execEq (a b : Word) (s : State) : Host.Outcome State Fault Refusal := answerPlain (placeTruth (eqWords a b)) s

/-- CMP (R91). -/
def execCmp (a b : Word) (s : State) : Host.Outcome State Fault Refusal := answerPlain (placeOrdering (cmpWords a b)) s

end Sys2Proof.Machine
end

