-- ==== Sys2Proof/Machine/Derived.lean ====
section
/-! DEFINITION. SIGN, ABS, ISINT, FLOOR, CEIL and ROUND (43_derived.md R120 to R125). -/

namespace Sys2Proof.Machine

/-- The result of SIGN: 0 for a zero-classified word, otherwise by bit 63, NaN included (R120, D15). -/
def signOf (a : Word) : Int := if iszero a then 0 else if a.msb then -1 else 1

/-- The result of ABS (R121). -/
def absWord (a : Word) : Answer :=
  if isnan a then ⟨NAN, FlagSet.none⟩ else pack (coef a).natAbs (expo a)

/-- The truth value of ISINT (R122). -/
def isInteger (a : Word) : Bool :=
  if isnan a then false
  else if expo a ≤ -17 ∧ coef a ≠ 0 then false
  else if 0 ≤ expo a ∨ coef a = 0 then true
  else decide (trem (coef a) (10 ^ (-expo a).toNat) = 0)

/-- `10^(-e)` does not fit a signed 64-bit word (R123, D17). -/
def scaledOneOverflows (e : Int) : Bool := decide (19 ≤ -e)

/-- Re-apply the sign to a magnitude and canonicalize (R123). -/
def packSigned (negative : Bool) (mag e : Int) : Answer := pack (if negative then -mag else mag) e

/-- The magnitude FLOOR packs, from `m = |c|`, `s = 10^(-e)` and the sign (R123). -/
def floorMagnitude (m s : Int) (negative : Bool) : Int :=
  if m % s = 0 then m else if negative then m - m % s + s else m - m % s

/-- The magnitude CEIL packs (R124). -/
def ceilMagnitude (m s : Int) (negative : Bool) : Int :=
  if m % s = 0 then m else if negative then m + (s - m % s) - s else m + (s - m % s)

/-- The result of FLOOR (R123). -/
def floorWord (a : Word) : Answer :=
  if isnan a then ⟨NAN, FlagSet.none⟩
  else if 0 ≤ expo a then ⟨a, FlagSet.none⟩
  else if scaledOneOverflows (expo a) then
    if coef a = 0 then ⟨ZERO, FlagSet.none⟩
    else if coef a < 0 then ⟨word (-1) 0, FlagSet.none⟩
    else ⟨ZERO, FlagSet.none⟩
  else
    packSigned (decide (coef a < 0))
      (floorMagnitude (coef a).natAbs (10 ^ (-expo a).toNat) (decide (coef a < 0))) (expo a)

/-- The result of CEIL (R124). -/
def ceilWord (a : Word) : Answer :=
  if isnan a then ⟨NAN, FlagSet.none⟩
  else if 0 ≤ expo a then ⟨a, FlagSet.none⟩
  else if scaledOneOverflows (expo a) then
    if coef a = 0 then ⟨ZERO, FlagSet.none⟩
    else if coef a < 0 then ⟨ZERO, FlagSet.none⟩
    else ⟨word 1 0, FlagSet.none⟩
  else
    packSigned (decide (coef a < 0))
      (ceilMagnitude (coef a).natAbs (10 ^ (-expo a).toNat) (decide (coef a < 0))) (expo a)

/-- The quotient of ROUND for `k` digits dropped, rounded on the last of them; from 18 digits on both the quotient
and that digit are 0 (R125). -/
def roundDrop (c : Int) (k : Nat) : Int :=
  if 18 ≤ k then 0 else rha (tdiv c (10 ^ k)) (trem (tdiv c (10 ^ (k - 1))) 10)

/-- The result of ROUND to the target exponent `t` (R125, D18). -/
def roundWord (a : Word) (t : Int) : Answer :=
  if isnan a then ⟨NAN, FlagSet.none⟩
  else if t ≤ expo a then ⟨a, FlagSet.none⟩
  else pack (roundDrop (coef a) (t - expo a).toNat) t

/-- SIGN (R120). -/
def execSign (a : Word) (s : State) : Host.Outcome State Fault Refusal := answerPlain (placeSigned (signOf a)) s

/-- ABS (R121). -/
def execAbs (a : Word) (s : State) : Host.Outcome State Fault Refusal := answerD (absWord a) s

/-- ISINT (R122). -/
def execIsint (a : Word) (s : State) : Host.Outcome State Fault Refusal := answerPlain (placeTruth (isInteger a)) s

/-- FLOOR (R123). -/
def execFloor (a : Word) (s : State) : Host.Outcome State Fault Refusal := answerD (floorWord a) s

/-- CEIL (R124). -/
def execCeil (a : Word) (s : State) : Host.Outcome State Fault Refusal := answerD (ceilWord a) s

/-- ROUND (R125). -/
def execRound (a : Word) (t : Int) (s : State) : Host.Outcome State Fault Refusal := answerD (roundWord a t) s

end Sys2Proof.Machine
end

