-- ==== Sys2Proof/Machine/BinaryFloat.lean ====
section
/-! DEFINITION. The two binary formats, rounding to nearest even, multiplication, the power-of-ten parameter and the
shortest-decimal routine (44_conversions.md R141, R144, R167). All arithmetic is exact, on numerators and
denominators. -/

namespace Sys2Proof.Machine

/-- A binary format: `w` biased-exponent bits and precision `p` (R167). -/
structure FloatFormat where
  w : Nat
  p : Nat
deriving DecidableEq, Repr

/-- binary32 (R167). -/
def binary32 : FloatFormat := ⟨8, 24⟩

/-- binary64 (R167). -/
def binary64 : FloatFormat := ⟨11, 53⟩

/-- The bias `B` (R167). -/
def FloatFormat.bias (F : FloatFormat) : Int := 2 ^ (F.w - 1) - 1

/-- The least normal exponent `emin = 1 - B` (R167). -/
def FloatFormat.emin (F : FloatFormat) : Int := 1 - F.bias

/-- The pattern of `+infinity`: `E` all ones, `M = 0` (R167). -/
def FloatFormat.infinity (F : FloatFormat) : Nat := (2 ^ F.w - 1) * 2 ^ (F.p - 1)

/-- The quiet NaN this spec writes (R167). -/
def FloatFormat.quietNaN (F : FloatFormat) : Nat := F.infinity + 2 ^ (F.p - 2)

/-- The sign bit `s` of a pattern (R167). -/
def FloatFormat.negative (F : FloatFormat) (x : Nat) : Bool := x / 2 ^ (F.w + F.p - 1) % 2 == 1

/-- The biased-exponent bits `E` of a pattern (R167). -/
def FloatFormat.expBits (F : FloatFormat) (x : Nat) : Nat := x / 2 ^ (F.p - 1) % 2 ^ F.w

/-- The fraction bits `M` of a pattern (R167). -/
def FloatFormat.fracBits (F : FloatFormat) (x : Nat) : Nat := x % 2 ^ (F.p - 1)

/-- A pattern with the sign bit of `negative` above a magnitude (R167). -/
def FloatFormat.signed (F : FloatFormat) (negative : Bool) (magnitude : Nat) : Nat :=
  if negative then 2 ^ (F.w + F.p - 1) + magnitude else magnitude

/-- What a pattern stands for: a NaN, an infinity, or `(-1)^s * f * 2^q` (R167). -/
inductive FloatValue where
  | nan
  | infinite (negative : Bool)
  | finite (negative : Bool) (f : Nat) (q : Int)
deriving DecidableEq, Repr

/-- The significand `f` of a finite pattern (R167). -/
def FloatFormat.significand (F : FloatFormat) (x : Nat) : Nat :=
  if F.expBits x = 0 then F.fracBits x else 2 ^ (F.p - 1) + F.fracBits x

/-- The exponent `q` of the significand's last bit (R167). -/
def FloatFormat.quantum (F : FloatFormat) (x : Nat) : Int :=
  if F.expBits x = 0 then F.emin - (F.p - 1) else F.expBits x - F.bias - (F.p - 1)

/-- The value of a pattern (R167). -/
def FloatFormat.value (F : FloatFormat) (x : Nat) : FloatValue :=
  if F.expBits x = 2 ^ F.w - 1 then
    if F.fracBits x = 0 then .infinite (F.negative x) else .nan
  else .finite (F.negative x) (F.significand x) (F.quantum x)

/-- `b^e` when `0 ≤ e`, otherwise 1: the numerator of a power. -/
def powNum (b : Nat) (e : Int) : Nat := b ^ e.toNat

/-- `b^(-e)` when `e ≤ 0`, otherwise 1: the denominator of a power. -/
def powDen (b : Nat) (e : Int) : Nat := b ^ (-e).toNat

/-- `floor(log2(num / den))`. -/
def floorLog2 (num den : Nat) : Int :=
  if den * powNum 2 (num.log2 - den.log2) ≤ num * powDen 2 (num.log2 - den.log2) then (num.log2 : Int) - den.log2
  else (num.log2 : Int) - den.log2 - 1

/-- `num / den` rounded to the nearest integer, ties to even. -/
def divRoundEven (num den : Nat) : Nat :=
  if den < 2 * (num % den) ∨ (2 * (num % den) = den ∧ num / den % 2 = 1) then num / den + 1 else num / den

/-- The significand grid's exponent for `num / den`: one unit in the last place, not below the subnormals' (R167). -/
def FloatFormat.ulpExponent (F : FloatFormat) (num den : Nat) : Int :=
  max (floorLog2 num den) F.emin - (F.p - 1)

/-- The magnitude pattern of `RN_N(num / den)` (R167): the significand rounded on the grid, a carry passing into the
exponent bits, and infinity from halfway past the largest finite value on. -/
def FloatFormat.roundMagnitude (F : FloatFormat) (num den : Nat) : Nat :=
  if num = 0 then 0
  else
    min F.infinity
      ((F.ulpExponent num den + (F.p - 1) - F.emin).toNat * 2 ^ (F.p - 1) +
        divRoundEven (num * powDen 2 (F.ulpExponent num den)) (den * powNum 2 (F.ulpExponent num den)))

/-- `RN_N` of `num / den` with a sign; a zero keeps the sign (R167). -/
def FloatFormat.round (F : FloatFormat) (negative : Bool) (num den : Nat) : Nat :=
  F.signed negative (F.roundMagnitude num den)

/-- `RN_N` of an integer: the cast of TOF (R140). -/
def FloatFormat.ofInt (F : FloatFormat) (c : Int) : Nat := F.round (decide (c < 0)) c.natAbs 1

/-- `MULT_N(x, y)` (R167). -/
def FloatFormat.mult (F : FloatFormat) (x y : Nat) : Nat :=
  match F.value x, F.value y with
  | .nan, _ => F.quietNaN
  | _, .nan => F.quietNaN
  | .infinite s, .infinite t => F.signed (s != t) F.infinity
  | .infinite s, .finite t f _ => if f = 0 then F.quietNaN else F.signed (s != t) F.infinity
  | .finite s f _, .infinite t => if f = 0 then F.quietNaN else F.signed (s != t) F.infinity
  | .finite s f q, .finite t g r => F.round (s != t) (f * g * powNum 2 (q + r)) (powDen 2 (q + r))

/-- A power-of-ten pattern under the constraints of R141: 1.0 at exponent 0, otherwise positive, `+0` or
`+infinity`, never NaN. Every choice the constraints allow is `pattern` for some function. -/
def FloatFormat.constrainPow10 (F : FloatFormat) (pattern : Int → Nat) (e : Int) : Nat :=
  if e = 0 then (2 ^ (F.w - 1) - 1) * 2 ^ (F.p - 1) else min F.infinity (pattern e)

/-- `POW10_32`, the implementation's (R8, R141). -/
def pow10_32 (e : Int) : Nat := binary32.constrainPow10 Config.pow10Pattern32 e

/-- `POW10_64`, the implementation's (R8, R141). -/
def pow10_64 (e : Int) : Nat := binary64.constrainPow10 Config.pow10Pattern64 e

/-- The recommended instantiation `RN_N(10^e)` (R141, D20). No meaning uses it: the implementation's powers are the
free `pow10_32` and `pow10_64`. -/
def FloatFormat.recommendedPow10 (F : FloatFormat) (e : Int) : Nat := F.roundMagnitude (powNum 10 e) (powDen 10 e)

/-- The number of decimal digits of `n`, 0 for 0; the first argument bounds the number of divisions. -/
def decimalLength : Nat → Nat → Nat
  | 0, _ => 0
  | k + 1, n => if n = 0 then 0 else decimalLength k (n / 10) + 1

/-- `decimalLength` with a bound that is enough. -/
def digitCount (n : Nat) : Nat := decimalLength (n.log2 + 1) n

/-- `floor(log10(num / den))`. -/
def floorLog10 (num den : Nat) : Int :=
  if den * powNum 10 (digitCount num - digitCount den) ≤ num * powDen 10 (digitCount num - digitCount den) then
    (digitCount num : Int) - digitCount den
  else (digitCount num : Int) - digitCount den - 1

/-- The rounding interval of a positive finite float as integers over one denominator: the float is
`mid / den`, the halfway points are `lo / den` and `hi / den`, and they belong to it when `closed` (R144). -/
structure RoundingInterval where
  lo     : Nat
  mid    : Nat
  hi     : Nat
  den    : Nat
  closed : Bool
deriving DecidableEq, Repr

/-- The rounding interval of the positive finite pattern `x` (R144): half a unit up, half a unit down, a quarter
down from a power of two that is not the least normal's. -/
def FloatFormat.interval (F : FloatFormat) (x : Nat) : RoundingInterval where
  lo := (4 * F.significand x - (if F.fracBits x = 0 ∧ 1 < F.expBits x then 1 else 2)) * powNum 2 (F.quantum x)
  mid := 4 * F.significand x * powNum 2 (F.quantum x)
  hi := (4 * F.significand x + 2) * powNum 2 (F.quantum x)
  den := 4 * powDen 2 (F.quantum x)
  closed := F.significand x % 2 == 0

/-- `inside(m * 10^k)` (R144). -/
def RoundingInterval.inside (I : RoundingInterval) (m : Nat) (k : Int) : Bool :=
  if I.closed then
    decide (I.lo * powDen 10 k ≤ m * powNum 10 k * I.den ∧ m * powNum 10 k * I.den ≤ I.hi * powDen 10 k)
  else decide (I.lo * powDen 10 k < m * powNum 10 k * I.den ∧ m * powNum 10 k * I.den < I.hi * powDen 10 k)

/-- `floor(x / 10^k)` (R144). -/
def RoundingInterval.digitsAt (I : RoundingInterval) (k : Int) : Nat := I.mid * powDen 10 k / (I.den * powNum 10 k)

/-- The distance of `m * 10^k` from the float, over the common denominator (R144). -/
def RoundingInterval.distance (I : RoundingInterval) (m : Nat) (k : Int) : Nat :=
  ((m * powNum 10 k * I.den : Nat) - (I.mid * powDen 10 k : Nat) : Int).natAbs

/-- The member of `{t, t + 1}` that R144 takes at exponent `k`, if any: the one inside, of two the nearer, of two
equally near the even one. -/
def RoundingInterval.candidate (I : RoundingInterval) (k : Int) : Option Nat :=
  match decide (0 < I.digitsAt k) && I.inside (I.digitsAt k) k, I.inside (I.digitsAt k + 1) k with
  | false, false => none
  | true, false => some (I.digitsAt k)
  | false, true => some (I.digitsAt k + 1)
  | true, true =>
    if I.distance (I.digitsAt k) k < I.distance (I.digitsAt k + 1) k then some (I.digitsAt k)
    else if I.distance (I.digitsAt k + 1) k < I.distance (I.digitsAt k) k then some (I.digitsAt k + 1)
    else if I.digitsAt k % 2 = 0 then some (I.digitsAt k)
    else some (I.digitsAt k + 1)

/-- Remove trailing zeros (R144); the first argument bounds the number of divisions. -/
def stripZeros : Nat → Nat → Int → Nat × Int
  | 0, m, k => (m, k)
  | n + 1, m, k => if m % 10 = 0 then stripZeros n (m / 10) (k + 1) else (m, k)

/-- The search of R144 over one digit more at a time, from exponent `k` down; the first argument bounds the number of
digits. -/
def RoundingInterval.search (I : RoundingInterval) : Nat → Int → Option (Nat × Int)
  | 0, _ => none
  | n + 1, k =>
    match I.candidate k with
    | some m => some (stripZeros (digitCount m) m k)
    | none => I.search n (k - 1)

/-- A number of digits at which the exact value itself is a candidate, for both formats; the search ends far earlier,
at 9 digits for binary32 and 17 for binary64 (R144). -/
def shortestBound : Nat := 1400

/-- `shortest_N(x) = (m, k)` for a positive, finite, non-zero pattern (R144). -/
def FloatFormat.shortest (F : FloatFormat) (x : Nat) : Option (Nat × Int) :=
  (F.interval x).search shortestBound (floorLog10 (F.interval x).mid (F.interval x).den)

end Sys2Proof.Machine
end

