-- ==== Sys2Proof/Machine/FloatConv.lean ====
section
/-! DEFINITION. TOF32, TOF64, FROMF32 and FROMF64 (44_conversions.md R140, R142, R143, R145). -/

namespace Sys2Proof.Machine

/-- TOF for a format and its power-of-ten function: the classes first, then the cast and the product (R140, R142,
D19). -/
def toFloat (F : FloatFormat) (pow10 : Int → Nat) (a : Word) : Nat :=
  if isnan a then F.quietNaN
  else if iszero a then 0
  else F.mult (F.ofInt (coef a)) (pow10 (expo a))

/-- FROMF of a positive or negative finite non-zero pattern: the shortest digits of its magnitude, the sign
re-applied, packed (R143). The digits always exist (R144), so the `none` arm is never reached. -/
def fromFinite (F : FloatFormat) (negative : Bool) (magnitude : Nat) : Answer :=
  match F.shortest magnitude with
  | some (m, k) => pack (if negative then -(m : Int) else (m : Int)) k
  | none => ⟨ZERO, FlagSet.none⟩

/-- FROMF for a format (R143, R145, D21). -/
def fromFloat (F : FloatFormat) (x : Nat) : Answer :=
  match F.value x with
  | .nan => ⟨NAN, FlagSet.none⟩
  | .infinite _ => ⟨NAN, FlagSet.overflow⟩
  | .finite s f _ => if f = 0 then ⟨ZERO, FlagSet.none⟩ else fromFinite F s (x % 2 ^ (F.w + F.p - 1))

/-- TOF32 (R140). -/
def execTof32 (a : Word) (s : State) : Host.Outcome State Fault Refusal :=
  answerPlain (placeF (BitVec.ofNat 32 (toFloat binary32 pow10_32 a))) s

/-- TOF64 (R142). -/
def execTof64 (a : Word) (s : State) : Host.Outcome State Fault Refusal :=
  answerPlain (placeF (BitVec.ofNat 64 (toFloat binary64 pow10_64 a))) s

/-- FROMF32 (R143). -/
def execFromf32 (x : BitVec 32) (s : State) : Host.Outcome State Fault Refusal :=
  answerD (fromFloat binary32 x.toNat) s

/-- FROMF64 (R145). -/
def execFromf64 (x : BitVec 64) (s : State) : Host.Outcome State Fault Refusal :=
  answerD (fromFloat binary64 x.toNat) s

end Sys2Proof.Machine
end

