-- ==== Sys2Proof/Machine/IntConv.lean ====
section
/-! DEFINITION. The ten from-integer and the ten to-integer operations, each one line over its template
(44_conversions.md R146 to R166, R169). -/

namespace Sys2Proof.Machine

/-- `fromint(v)`: divide by ten until the value is in coefficient range, round on the last digit, pack (R166). The
exponent starts at 0 and only grows, so the loop's exponent test never holds it back. -/
def fromInt (v : Int) : Answer :=
  match liftToRange (liftBound v 0) v 0 0 with
  | (q, k, d) => pack (rha q d) k

/-- `toint(a)`: the coefficient, times the power of ten when the exponent is positive; NaN is not special and
nothing is checked (R169, D22). -/
def toInt (a : Word) : Int := if expo a ≤ 0 then coef a else coef a * 10 ^ (expo a).toNat

/-- FROMI8 (R146). -/
def execFromi8 (v : Int) (s : State) : Host.Outcome State Fault Refusal := answerD (fromInt v) s

/-- FROMI16 (R147). -/
def execFromi16 (v : Int) (s : State) : Host.Outcome State Fault Refusal := answerD (fromInt v) s

/-- FROMI32 (R148). -/
def execFromi32 (v : Int) (s : State) : Host.Outcome State Fault Refusal := answerD (fromInt v) s

/-- FROMI64 (R149). -/
def execFromi64 (v : Int) (s : State) : Host.Outcome State Fault Refusal := answerD (fromInt v) s

/-- FROMI128 (R150). -/
def execFromi128 (v : Int) (s : State) : Host.Outcome State Fault Refusal := answerD (fromInt v) s

/-- FROMU8 (R151). -/
def execFromu8 (v : Int) (s : State) : Host.Outcome State Fault Refusal := answerD (fromInt v) s

/-- FROMU16 (R152). -/
def execFromu16 (v : Int) (s : State) : Host.Outcome State Fault Refusal := answerD (fromInt v) s

/-- FROMU32 (R153). -/
def execFromu32 (v : Int) (s : State) : Host.Outcome State Fault Refusal := answerD (fromInt v) s

/-- FROMU64 (R154). -/
def execFromu64 (v : Int) (s : State) : Host.Outcome State Fault Refusal := answerD (fromInt v) s

/-- FROMU128 (R155). -/
def execFromu128 (v : Int) (s : State) : Host.Outcome State Fault Refusal := answerD (fromInt v) s

/-- TOI8 (R156). -/
def execToi8 (a : Word) (s : State) : Host.Outcome State Fault Refusal :=
  answerPlain (placeSignedField 8 (toInt a)) s

/-- TOI16 (R157). -/
def execToi16 (a : Word) (s : State) : Host.Outcome State Fault Refusal :=
  answerPlain (placeSignedField 16 (toInt a)) s

/-- TOI32 (R158). -/
def execToi32 (a : Word) (s : State) : Host.Outcome State Fault Refusal :=
  answerPlain (placeSignedField 32 (toInt a)) s

/-- TOI64 (R159). -/
def execToi64 (a : Word) (s : State) : Host.Outcome State Fault Refusal :=
  answerPlain (placeSignedField 64 (toInt a)) s

/-- TOI128 (R160). -/
def execToi128 (a : Word) (s : State) : Host.Outcome State Fault Refusal :=
  answerPlain (placeSignedField 128 (toInt a)) s

/-- TOU8 (R161). -/
def execTou8 (a : Word) (s : State) : Host.Outcome State Fault Refusal :=
  answerPlain (placeUnsignedField 8 (toInt a)) s

/-- TOU16 (R162). -/
def execTou16 (a : Word) (s : State) : Host.Outcome State Fault Refusal :=
  answerPlain (placeUnsignedField 16 (toInt a)) s

/-- TOU32 (R163). -/
def execTou32 (a : Word) (s : State) : Host.Outcome State Fault Refusal :=
  answerPlain (placeUnsignedField 32 (toInt a)) s

/-- TOU64 (R164). -/
def execTou64 (a : Word) (s : State) : Host.Outcome State Fault Refusal :=
  answerPlain (placeUnsignedField 64 (toInt a)) s

/-- TOU128 (R165). -/
def execTou128 (a : Word) (s : State) : Host.Outcome State Fault Refusal :=
  answerPlain (placeUnsignedField 128 (toInt a)) s

end Sys2Proof.Machine
end

