-- ==== Sys2Proof/Machine/Packing.lean ====
section
/-! DEFINITION. The meanings of PACK, RAW, COEF, EXPO, ISNAN and ISZERO (40_packing.md R71, R73 to R77). -/

namespace Sys2Proof.Machine

/-- PACK (R73). -/
def execPack (c e : Int) (s : State) : Host.Outcome State Fault Refusal := answerD (pack c e) s

/-- RAW: the two fields side by side, without range checking (R71). -/
def execRaw (c : BitVec 56) (e : BitVec 8) (s : State) : Host.Outcome State Fault Refusal :=
  answerD ⟨c ++ e, FlagSet.none⟩ s

/-- COEF (R74). -/
def execCoef (a : Word) (s : State) : Host.Outcome State Fault Refusal := answerPlain (placeSigned (coef a)) s

/-- EXPO (R75). -/
def execExpo (a : Word) (s : State) : Host.Outcome State Fault Refusal := answerPlain (placeSigned (expo a)) s

/-- ISNAN (R76). -/
def execIsnan (a : Word) (s : State) : Host.Outcome State Fault Refusal := answerPlain (placeTruth (isnan a)) s

/-- ISZERO (R77). -/
def execIszero (a : Word) (s : State) : Host.Outcome State Fault Refusal := answerPlain (placeTruth (iszero a)) s

end Sys2Proof.Machine
end

