-- ==== Sys2Proof/Machine/Dispatch.lean ====
section
/-! DEFINITION. One arm per operation (30_encoding.md R53, R55). -/

namespace Sys2Proof.Machine

def exec (i : Instr) (s : State) : Host.Outcome State Fault Refusal :=
  match i with
  | .pack c e => Sys2Proof.Machine.execPack c e s
  | .raw c e => Sys2Proof.Machine.execRaw c e s
  | .coef a => Sys2Proof.Machine.execCoef a s
  | .expo a => Sys2Proof.Machine.execExpo a s
  | .isnan a => Sys2Proof.Machine.execIsnan a s
  | .iszero a => Sys2Proof.Machine.execIszero a s
  | .eq a b => Sys2Proof.Machine.execEq a b s
  | .cmp a b => Sys2Proof.Machine.execCmp a b s
  | .add a b => Sys2Proof.Machine.execAdd a b s
  | .sub a b => Sys2Proof.Machine.execSub a b s
  | .neg a => Sys2Proof.Machine.execNeg a s
  | .mul a b => Sys2Proof.Machine.execMul a b s
  | .div a b => Sys2Proof.Machine.execDiv a b s
  | .sign a => Sys2Proof.Machine.execSign a s
  | .abs a => Sys2Proof.Machine.execAbs a s
  | .isint a => Sys2Proof.Machine.execIsint a s
  | .floor a => Sys2Proof.Machine.execFloor a s
  | .ceil a => Sys2Proof.Machine.execCeil a s
  | .round a t => Sys2Proof.Machine.execRound a t s
  | .tof32 a => Sys2Proof.Machine.execTof32 a s
  | .tof64 a => Sys2Proof.Machine.execTof64 a s
  | .fromf32 x => Sys2Proof.Machine.execFromf32 x s
  | .fromf64 x => Sys2Proof.Machine.execFromf64 x s
  | .fromi8 v => Sys2Proof.Machine.execFromi8 v s
  | .fromi16 v => Sys2Proof.Machine.execFromi16 v s
  | .fromi32 v => Sys2Proof.Machine.execFromi32 v s
  | .fromi64 v => Sys2Proof.Machine.execFromi64 v s
  | .fromi128 v => Sys2Proof.Machine.execFromi128 v s
  | .fromu8 v => Sys2Proof.Machine.execFromu8 v s
  | .fromu16 v => Sys2Proof.Machine.execFromu16 v s
  | .fromu32 v => Sys2Proof.Machine.execFromu32 v s
  | .fromu64 v => Sys2Proof.Machine.execFromu64 v s
  | .fromu128 v => Sys2Proof.Machine.execFromu128 v s
  | .toi8 a => Sys2Proof.Machine.execToi8 a s
  | .toi16 a => Sys2Proof.Machine.execToi16 a s
  | .toi32 a => Sys2Proof.Machine.execToi32 a s
  | .toi64 a => Sys2Proof.Machine.execToi64 a s
  | .toi128 a => Sys2Proof.Machine.execToi128 a s
  | .tou8 a => Sys2Proof.Machine.execTou8 a s
  | .tou16 a => Sys2Proof.Machine.execTou16 a s
  | .tou32 a => Sys2Proof.Machine.execTou32 a s
  | .tou64 a => Sys2Proof.Machine.execTou64 a s
  | .tou128 a => Sys2Proof.Machine.execTou128 a s

end Sys2Proof.Machine
end

