-- ==== Sys2Proof/Machine/Step.lean ====
section
/-! DEFINITION. One step of the machine: the request whose turn it is gets its response (R33, R46), otherwise one
rising edge of `clk` passes (R61, R190). A run of requests takes no edge of its own: latency is counted in edges by
`wait` (R196). -/

namespace Sys2Proof.Machine

/-- One step. An unassigned opcode is answered like any other request (R58). -/
def step (s : State) : Host.Outcome State Fault Refusal :=
  match s.toRun with
  | some q =>
    match decode q with
    | .ok i => exec i s
    | .error _ => answerUnassigned s
  | none => .next s.clockEdge

/-- The state in which the request with bundle `w` (its low `nbits` bits, the rest 0) is the one accepted and
unanswered request, its latency passed and no response offered: the very next step runs it. The record of accepted
requests is kept in agreement with `pending`. -/
def State.withFetchWord (s : State) (nbits w : Nat) : State :=
  { s with
    pending  := [Request.ofBundle (BitVec.ofNat 200 (w % 2 ^ nbits))]
    rspValid := false
    wait     := 0
    accepted := s.accepted.take s.delivered.length ++ [Request.ofBundle (BitVec.ofNat 200 (w % 2 ^ nbits))] }

end Sys2Proof.Machine
end

