-- ==== Sys2Proof/Safety.lean ====
section
/-! DEFINITION. The terms in which claims are stated: the unit's function `EXEC`, the number a word stands for, the
invariant of the ports and the queue, and the operand bits each opcode reads. -/

namespace Sys2Proof.Machine

/-- The bundle an outcome offers; a stop offers none, and no operation stops (R180). -/
def responseOf (o : Host.Outcome State Fault Refusal) : Response :=
  match o with
  | .next t => ⟨t.rspR, t.rspFlags⟩
  | .fault _ => ⟨0#128, 0#4⟩
  | .refused _ => ⟨0#128, 0#4⟩

/-- `EXEC(op, a, b) = (r, flags)`: the whole unit as a function of one request (R53). -/
def EXEC (q : Request) : Response :=
  match decode q with
  | .ok i => responseOf (exec i State.reset)
  | .error _ => responseOf (answerUnassigned State.reset)

/-- The number a finite or zero word stands for: `coef(w) * 10^expo(w)` (R27). -/
def value (w : Word) : ℚ := (coef w : ℚ) * (10 : ℚ) ^ expo w

/-- What holds of the queue and the ports in every reachable state (R33, R46, R61, R198). -/
structure State.Sound (s : State) : Prop where
  /-- No more responses than requests. -/
  answered  : s.delivered.length ≤ s.accepted.length
  /-- `pending` is what was accepted and not yet answered, in order. -/
  queue     : s.pending = s.accepted.drop s.delivered.length
  /-- Response `n` is `EXEC` of request `n`: none dropped, duplicated or reordered. -/
  responses : s.delivered = (s.accepted.take s.delivered.length).map EXEC
  /-- An offered bundle is the response to the head of `pending`. -/
  offered   : s.rspValid = true → ∃ q, s.pending.head? = some q ∧ (⟨s.rspR, s.rspFlags⟩ : Response) = EXEC q
  /-- The queue never holds more than its capacity. -/
  bounded   : s.pending.length ≤ Config.capacity
  /-- `req_ready` is 1 only while there is room. -/
  room      : s.reqReady = true → s.pending.length < Config.capacity

/-- No input the host's schedule holds asserts `rst`. -/
def State.noReset (s : State) : Prop := ∀ x ∈ s.inputs, x.rst = false

/-- The 43 opcodes of R55, in the table's order. -/
def assignedOpcodes : List (BitVec 8) :=
  [0x10#8, 0x11#8, 0x12#8, 0x13#8, 0x14#8, 0x15#8, 0x20#8, 0x21#8, 0x30#8, 0x31#8, 0x32#8, 0x33#8, 0x34#8] ++
  [0x40#8, 0x41#8, 0x42#8, 0x43#8, 0x44#8, 0x45#8, 0x50#8, 0x51#8, 0x52#8, 0x53#8] ++
  [0x60#8, 0x61#8, 0x62#8, 0x63#8, 0x64#8, 0x68#8, 0x69#8, 0x6A#8, 0x6B#8, 0x6C#8] ++
  [0x70#8, 0x71#8, 0x72#8, 0x73#8, 0x74#8, 0x78#8, 0x79#8, 0x7A#8, 0x7B#8, 0x7C#8]

/-- How many low bits of `req_a` an assigned opcode reads, by its format (R54, R55). -/
def usedBitsA (op : BitVec 8) : Nat :=
  if op = 0x10#8 ∨ op = 0x64#8 ∨ op = 0x6C#8 then 128
  else if op = 0x11#8 then 56
  else if op = 0x52#8 ∨ op = 0x62#8 ∨ op = 0x6A#8 then 32
  else if op = 0x60#8 ∨ op = 0x68#8 then 8
  else if op = 0x61#8 ∨ op = 0x69#8 then 16
  else 64

/-- How many low bits of `req_b` an assigned opcode reads, by its format (R54, R55). -/
def usedBitsB (op : BitVec 8) : Nat :=
  if op = 0x11#8 then 8
  else if op ∈ [0x10#8, 0x20#8, 0x21#8, 0x30#8, 0x31#8, 0x33#8, 0x34#8, 0x45#8] then 64
  else 0

/-- The result of the operation is a DEC64 word (result type `D`, R54, R55). -/
def wordResult (i : Instr) : Bool :=
  match i with
  | .coef _ | .expo _ | .isnan _ | .iszero _ | .eq _ _ | .cmp _ _ | .sign _ | .isint _ | .tof32 _ | .tof64 _ => false
  | .toi8 _ | .toi16 _ | .toi32 _ | .toi64 _ | .toi128 _ | .tou8 _ | .tou16 _ | .tou32 _ | .tou64 _ | .tou128 _ => false
  | .pack _ _ | .raw _ _ | .add _ _ | .sub _ _ | .neg _ | .mul _ _ | .div _ _ | .abs _ | .floor _ | .ceil _ => true
  | .round _ _ | .fromf32 _ | .fromf64 _ | .fromi8 _ | .fromi16 _ | .fromi32 _ | .fromi64 _ | .fromi128 _ => true
  | .fromu8 _ | .fromu16 _ | .fromu32 _ | .fromu64 _ | .fromu128 _ => true

/-- The magnitude of a finite pattern of a format, as a number (R167). -/
def FloatFormat.magnitude (F : FloatFormat) (x : Nat) : ℚ := (F.significand x : ℚ) * (2 : ℚ) ^ F.quantum x

/-- `x` is the magnitude pattern of `RN_N(v)` for `0 ≤ v` (R167): infinity when `v` is `2^(B+1) - 2^(B-p)` or more,
otherwise the finite pattern nearest to `v`, of two equally near the even one. -/
def FloatFormat.IsRounded (F : FloatFormat) (v : ℚ) (x : Nat) : Prop :=
  ((2 : ℚ) ^ (F.bias + 1) - (2 : ℚ) ^ (F.bias - F.p) ≤ v → x = F.infinity) ∧
  (v < (2 : ℚ) ^ (F.bias + 1) - (2 : ℚ) ^ (F.bias - F.p) →
    x < F.infinity ∧
    ∀ y : Nat, y < F.infinity →
      |v - F.magnitude x| ≤ |v - F.magnitude y| ∧
      (|v - F.magnitude x| = |v - F.magnitude y| → y = x ∨ x % 2 = 0))

end Sys2Proof.Machine
end

