-- ==== Sys2Proof/Certificates/Slice0/Obligations.lean ====
section
/-! DEFINITION. The statements for the provers. `s.offer r f` is the state `s` with the response `(r, f)` offered and
nothing else changed; a word result `w` stands on the port as `placeD w`. Flag bundles are written `ILL UNF OVF
NANF`, so `1#4` is NANF, `3#4` OVF with NANF, `4#4` UNF and `8#4` ILL. -/

open Sys2Proof Sys2Proof.Machine

/-! ### Requests and the opcode map -/

/-- Decoding the request written for a well-formed operation gives that operation back (R54, R55, R57). -/
def Obligations.DecodeInvertsEncode : Prop :=
  ∀ i : Instr, i.wellFormed = true → decode (encode i) = .ok i

/-- What a request decodes to is well-formed, has the request's opcode, and is what its own request decodes to. -/
def Obligations.DecodedOperationIsWellFormed : Prop :=
  ∀ (q : Request) (i : Instr), decode q = .ok i →
    i.wellFormed = true ∧ (encode i).op = q.op ∧ decode (encode i) = .ok i

/-- Exactly the 43 opcodes of R55 name an operation; any other is rejected by name (R58). -/
def Obligations.OnlyAssignedOpcodesDecode : Prop :=
  ∀ q : Request,
    ((∃ i, decode q = .ok i) ↔ q.op ∈ assignedOpcodes) ∧
    (q.op ∉ assignedOpcodes → decode q = .error (.unassignedOpcode q.op))

/-- The response does not depend on the operand bits that the opcode's format ignores (R54, R59). -/
def Obligations.IgnoredOperandBitsHaveNoEffect : Prop :=
  ∀ (op : BitVec 8) (a a' : Port) (b b' : BitVec 64), op ∈ assignedOpcodes →
    a.toNat % 2 ^ usedBitsA op = a'.toNat % 2 ^ usedBitsA op →
    b.toNat % 2 ^ usedBitsB op = b'.toNat % 2 ^ usedBitsB op →
    EXEC ⟨op, a, b⟩ = EXEC ⟨op, a', b'⟩

/-- Five bundles of the spec's programs (95_test_vectors.md section 7), written out, decode to their operations. -/
def Obligations.WrittenBundlesDecode : Prop :=
  decodeTableWord 200 0x10FFFFFFFFFFFFFFFF00000000000000000000000000000001 = some (.pack 1 (-1)) ∧
  decodeTableWord 200 0x3000000000000002FF000000000000000000000000000001FF = some (.add 0x1FF#64 0x2FF#64) ∧
  decodeTableWord 200 0x21000000000000040000000000000000000000000000000200 = some (.cmp 0x200#64 0x400#64) ∧
  decodeTableWord 200 0x450000000000000000000000000000000000000000000014FF = some (.round 0x14FF#64 0) ∧
  decodeTableWord 200 0x53000000000000000000000000000000003FB999999999999A = some (.fromf64 0x3FB999999999999A#64)

/-! ### The step and the ports -/

/-- When no response is offered and the latency of the request at the head of `pending` has passed, the step runs
the operation that request names, and adds nothing to it. That latency is the model's own field `wait`, and that such a
step lets no clock edge pass is the model's choice (notes/assumptions/2.md). -/
def Obligations.StepRunsHeadOfPending : Prop :=
  ∀ (s : State) (q : Request) (rest : List Request) (i : Instr),
    s.rspValid = false → s.wait = 0 → s.pending = q :: rest → decode q = .ok i → step s = exec i s

/-- A request with an unassigned opcode is answered with the canonical `NAN` word and ILL alone, whatever its
operands, and nothing else changes (R58). That the step at `wait` 0 is the one that answers, with no clock edge in
between, is the model's choice (notes/assumptions/2.md). -/
def Obligations.UnassignedOpcodeIsAnswered : Prop :=
  ∀ (s : State) (q : Request) (rest : List Request),
    s.rspValid = false → s.wait = 0 → s.pending = q :: rest → q.op ∉ assignedOpcodes →
    step s = .next (s.offer 0x80#128 8#4) ∧ EXEC q = ⟨0x80#128, 8#4⟩

/-- No state stops the unit: every step gives a next state (R180). -/
def Obligations.StepAlwaysCompletes : Prop :=
  ∀ s : State, ∃ t, step s = .next t

/-- Every operation completes in every state with a response that is a function of the request alone (R34, R53):
for each of the 43 constructors there is one bundle `(r, f)` that it offers in every state, and for a well-formed
operation that bundle is `EXEC` of its request. -/
def Obligations.ExecOffersExecOfItsRequest : Prop :=
  ∀ i : Instr,
    (∃ r f, ∀ s : State, exec i s = .next (s.offer r f)) ∧
    (i.wellFormed = true →
      ∀ s : State, exec i s = .next (s.offer (EXEC (encode i)).r (EXEC (encode i)).flags))

/-- The frame of all 43 operations: `rsp_valid` rises, `rsp_r` and `rsp_flags` may change, and the queue, `req_ready`,
the timing, the inputs and the record of the ports are as before (R20, R34, R43). -/
def Obligations.ExecChangesOnlyTheResponsePorts : Prop :=
  ∀ (i : Instr) (s t : State), exec i s = .next t →
    t.rspValid = true ∧ t.pending = s.pending ∧ t.reqReady = s.reqReady ∧ t.wait = s.wait ∧ t.hold = s.hold ∧
    t.tick = s.tick ∧ t.inputs = s.inputs ∧ t.accepted = s.accepted ∧ t.delivered = s.delivered

/-- Response `n` is `EXEC` of request `n`, none dropped, duplicated or reordered: every step keeps the invariant
`State.Sound`, a reset edge included (R33, R46). Three of its parts are the model's: the clause `room`, by which a full
unit never accepts at the edge at which it delivers (notes/assumptions/3.md), the capacity as a constant without a body
(7.md), and the records `accepted` and `delivered` that the other clauses speak of (9.md). -/
def Obligations.EveryStepKeepsSound : Prop :=
  ∀ s t : State, s.Sound → step s = .next t → t.Sound

/-- After reset `pending` is empty, `rsp_valid` is 0 and `req_ready` is 0 (R36, R190), and the invariant holds, whose
clause `room`, capacity and records are the model's (notes/assumptions/3.md, 7.md and 9.md). -/
def Obligations.ResetLeavesAnEmptyQueue : Prop :=
  State.reset.pending = [] ∧ State.reset.rspValid = false ∧ State.reset.reqReady = false ∧ State.reset.Sound

/-- At a rising edge without reset a response is delivered exactly when `rsp_valid` and `rsp_ready` are both 1, and
the head leaves `pending`; a request is accepted exactly when `req_valid` and `req_ready` are both 1, and it is
appended (R33, R61). -/
def Obligations.EdgeMovesRequestsAndResponses : Prop :=
  ∀ s : State, s.toRun = none → s.sampled.rst = false →
    ∃ t, step s = .next t ∧
      t.pending =
        (if s.rspValid = true ∧ s.sampled.rspReady = true then s.pending.tail else s.pending) ++
        (if s.sampled.reqValid = true ∧ s.reqReady = true then [s.sampled.req] else []) ∧
      t.delivered =
        s.delivered ++ (if s.rspValid = true ∧ s.sampled.rspReady = true then [⟨s.rspR, s.rspFlags⟩] else []) ∧
      t.accepted =
        s.accepted ++ (if s.sampled.reqValid = true ∧ s.reqReady = true then [s.sampled.req] else []) ∧
      t.inputs = s.inputs.tail

/-- Once `rsp_valid` is 1 it stays 1 with the same bundle until the response is delivered (R61, R195). -/
def Obligations.OfferedResponseIsHeld : Prop :=
  ∀ s : State, s.rspValid = true → s.sampled.rst = false → s.sampled.rspReady = false →
    ∃ t, step s = .next t ∧ t.rspValid = true ∧ t.rspR = s.rspR ∧ t.rspFlags = s.rspFlags ∧
      t.delivered = s.delivered

/-- A rising edge with `rst = 1` empties the queue and lowers `rsp_valid` and `req_ready`; the request and the
response on the ports at that edge are neither accepted nor delivered (R190). -/
def Obligations.ResetEdgeDropsEverything : Prop :=
  ∀ s : State, s.toRun = none → s.sampled.rst = true →
    ∃ t, step s = .next t ∧ t.pending = [] ∧ t.rspValid = false ∧ t.reqReady = false ∧ t.accepted = [] ∧
      t.delivered = [] ∧ t.inputs = s.inputs.tail

/-- With nothing pending and no reset, `req_ready` is 1 after at most `hold + 1` edges, whatever else the host does
(R61, R190: "within a finite number of cycles"). `hold` is the model's own field (notes/assumptions/3.md); the
statement holds for every value of it. -/
def Obligations.ReadyRisesWithinHold : Prop :=
  ∀ s : State, s.pending = [] → s.rspValid = false → s.noReset →
    ∃ k t, k ≤ s.hold + 1 ∧ Host.Core.run Sys2Proof.core k s = .next t ∧ t.reqReady = true

/-- The request at the head of `pending` has its response offered after `wait` edges, without any further request
(R195, R196), and the response is `EXEC` of it. `wait` is the model's own field (notes/assumptions/2.md); the
statement holds for every value of it. -/
def Obligations.PendingRequestIsAnswered : Prop :=
  ∀ (s : State) (q : Request) (rest : List Request),
    s.pending = q :: rest → s.rspValid = false → s.noReset →
    ∃ t, Host.Core.run Sys2Proof.core (s.wait + 1) s = .next t ∧ t.rspValid = true ∧
      t.pending.head? = some q ∧ (⟨t.rspR, t.rspFlags⟩ : Response) = EXEC q

/-! ### Flags -/

/-- The five flag bundles that occur, and what OVF, UNF and ILL go with (R52, R181). -/
def Obligations.FlagBundlesThatOccur : Prop :=
  ∀ q : Request,
    (EXEC q).flags ∈ [0#4, 1#4, 3#4, 4#4, 8#4] ∧
    ((EXEC q).flags = 3#4 → (EXEC q).r = 0x80#128) ∧
    ((EXEC q).flags = 4#4 → (EXEC q).r = 0#128) ∧
    ((EXEC q).flags = 8#4 ↔ q.op ∉ assignedOpcodes)

/-- A DEC64-word result stands in `rsp_r[63:0]` with zeros above, and NANF says whether it is NaN-classified; any
other result has all flags 0 (R52, R54). -/
def Obligations.NanfReportsTheResultWord : Prop :=
  ∀ (q : Request) (i : Instr), decode q = .ok i →
    (wordResult i = true → ∃ w : Word, (EXEC q).r = w.setWidth 128 ∧ (EXEC q).flags.getLsbD 0 = isnan w) ∧
    (wordResult i = false → (EXEC q).flags = 0#4)

/-- UNF comes only from PACK, MUL, DIV and FROMF64: ADD, SUB, NEG, ABS, FLOOR, CEIL, ROUND, FROMF32 and the
from-integer operations never set it (R181). -/
def Obligations.UnderflowFlagOnlyFromFour : Prop :=
  ∀ (q : Request) (i : Instr), decode q = .ok i → (EXEC q).flags = 4#4 → q.op ∈ [0x10#8, 0x33#8, 0x34#8, 0x53#8]

/-- OVF comes only from PACK, ADD, SUB, NEG, MUL, DIV, ABS, FROMF64, ROUND to a target above 127 and FROMF32 of an
infinity (R181). -/
def Obligations.OverflowFlagOnlyWhereListed : Prop :=
  ∀ (q : Request) (i : Instr), decode q = .ok i → (EXEC q).flags = 3#4 →
    q.op ∈ [0x10#8, 0x30#8, 0x31#8, 0x32#8, 0x33#8, 0x34#8, 0x41#8, 0x53#8] ∨
    (∃ a t, i = .round a t ∧ MAXE < t) ∨
    (∃ x, i = .fromf32 x ∧ x.extractLsb' 0 31 = 0x7F800000#31)

/-- Only RAW returns a denormal NaN: any other operation that returns a NaN-classified word returns the canonical
`NAN` (R30). -/
def Obligations.OnlyRawReturnsDenormalNan : Prop :=
  ∀ (q : Request) (i : Instr) (w : Word), decode q = .ok i → wordResult i = true → q.op ≠ 0x11#8 →
    (EXEC q).r = w.setWidth 128 → isnan w = true → w = NAN

/-! ### Packing -/

/-- A coefficient and an exponent in range come back exactly, and a zero coefficient gives `ZERO` at every exponent
(R78). -/
def Obligations.PackRoundTrips : Prop :=
  (∀ (c e : Int) (s : State), MINC ≤ c → c ≤ MAXC → c ≠ 0 → MINE ≤ e → e ≤ MAXE →
    exec (.pack c e) s = .next (s.offer (placeD (word c e)) 0#4) ∧ coef (word c e) = c ∧ expo (word c e) = e) ∧
  (∀ (e : Int) (s : State), exec (.pack 0 e) s = .next (s.offer 0#128 0#4))

/-- PACK is given by the closed forms of R70: the zero exit; a pair in range kept; out of coefficient range, with `j`
the least positive number of divisions that brings the coefficient into range, overflow when the exponent passes
127 and otherwise PACK of the quotient rounded half away from zero; in coefficient range above the exponent range,
the coefficient scaled up if that fits; below it, digits dropped without rounding. -/
def Obligations.PackIsItsClosedForm : Prop :=
  ∀ (c e : Int) (s : State),
    (c = 0 → exec (.pack c e) s = .next (s.offer (placeD ZERO) 0#4)) ∧
    (c ≠ 0 → inCoefRange c = true → MINE ≤ e → e ≤ MAXE →
      exec (.pack c e) s = .next (s.offer (placeD (word c e)) 0#4)) ∧
    (inCoefRange c = false → ∀ j : Nat, 1 ≤ j → inCoefRange (tdiv c (10 ^ j)) = true →
      (∀ i : Nat, i < j → inCoefRange (tdiv c (10 ^ i)) = false) →
      (MAXE < e + j → exec (.pack c e) s = .next (s.offer (placeD NAN) 3#4)) ∧
      (e + j ≤ MAXE →
        exec (.pack c e) s =
          exec (.pack (rha (tdiv c (10 ^ j)) (trem (tdiv c (10 ^ (j - 1))) 10)) (e + j)) s)) ∧
    (c ≠ 0 → inCoefRange c = true → MAXE < e →
      exec (.pack c e) s =
        if inCoefRange (c * 10 ^ (e - MAXE).toNat) = true then
          .next (s.offer (placeD (word (c * 10 ^ (e - MAXE).toNat) MAXE)) 0#4)
        else .next (s.offer (placeD NAN) 3#4)) ∧
    (c ≠ 0 → inCoefRange c = true → e < MINE →
      exec (.pack c e) s =
        if tdiv c (10 ^ (MINE - e).toNat) = 0 then .next (s.offer (placeD ZERO) 4#4)
        else .next (s.offer (placeD (word (tdiv c (10 ^ (MINE - e).toNat)) MINE)) 0#4))

/-- PACK returns only `ZERO`, `NAN`, or a word with a non-zero coefficient and an exponent in range (R30). -/
def Obligations.PackResultIsCanonical : Prop :=
  ∀ (c e : Int) (s : State), ∃ (w : Word) (f : FlagBits), exec (.pack c e) s = .next (s.offer (placeD w) f) ∧
    (w = ZERO ∨ w = NAN ∨ (coef w ≠ 0 ∧ MINC ≤ coef w ∧ coef w ≤ MAXC ∧ MINE ≤ expo w ∧ expo w ≤ MAXE))

/-- Lifting rounds to nearest: a coefficient out of range at an exponent of at least `MINE` that does not overflow is
packed within half a unit of the result's last place (R70). -/
def Obligations.PackRoundsToNearest : Prop :=
  ∀ (c e : Int) (s : State), inCoefRange c = false → MINE ≤ e →
    exec (.pack c e) s = .next (s.offer (placeD NAN) 3#4) ∨
    ∃ w : Word, exec (.pack c e) s = .next (s.offer (placeD w) 0#4) ∧
      2 * |(c : ℚ) * (10 : ℚ) ^ e - value w| ≤ (10 : ℚ) ^ expo w

/-- RAW, opcode `0x11`: the low 56 bits of `req_a` and the low 8 bits of `req_b` side by side; only a NaN-classified
word is flagged (R71). -/
def Obligations.RawAssemblesTheFields : Prop :=
  (∀ (p : Port) (q : BitVec 64),
    decode ⟨0x11#8, p, q⟩ = .ok (.raw (p.extractLsb' 0 56) (q.extractLsb' 0 8))) ∧
  (∀ (c : BitVec 56) (e : BitVec 8) (s : State),
    exec (.raw c e) s =
      .next (s.offer (((c ++ e : BitVec 64)).setWidth 128) (if e = 0x80#8 then 1#4 else 0#4)))

/-- COEF, EXPO, ISNAN and ISZERO, opcodes `0x12` to `0x15`, read the word in `req_a[63:0]`: the word shifted right
arithmetically by 8, the exponent byte, both sign-extended, and the two classes as truth values (R74 to R77). -/
def Obligations.AccessorsReadTheWord : Prop :=
  (∀ (p : Port) (q : BitVec 64), decode ⟨0x12#8, p, q⟩ = .ok (.coef (p.extractLsb' 0 64))) ∧
  (∀ (p : Port) (q : BitVec 64), decode ⟨0x13#8, p, q⟩ = .ok (.expo (p.extractLsb' 0 64))) ∧
  (∀ (p : Port) (q : BitVec 64), decode ⟨0x14#8, p, q⟩ = .ok (.isnan (p.extractLsb' 0 64))) ∧
  (∀ (p : Port) (q : BitVec 64), decode ⟨0x15#8, p, q⟩ = .ok (.iszero (p.extractLsb' 0 64))) ∧
  ∀ (w : Word) (s : State),
    exec (.coef w) s = .next (s.offer ((w.sshiftRight 8).signExtend 128) 0#4) ∧
    exec (.expo w) s = .next (s.offer ((w.setWidth 8).signExtend 128) 0#4) ∧
    exec (.isnan w) s = .next (s.offer (if expo w = -128 then 1#128 else 0#128) 0#4) ∧
    exec (.iszero w) s = .next (s.offer (if coef w = 0 ∧ expo w ≠ -128 then 1#128 else 0#128) 0#4)

/-! ### Comparison -/

/-- EQ answers 1 exactly when CMP answers 0 (R92). -/
def Obligations.EqAgreesWithCmp : Prop :=
  ∀ (a b : Word) (s : State),
    (exec (.eq a b) s = .next (s.offer 1#128 0#4) ↔ exec (.cmp a b) s = .next (s.offer 0#128 0#4)) ∧
    (exec (.eq a b) s = .next (s.offer 0#128 0#4) ↔ exec (.cmp a b) s ≠ .next (s.offer 0#128 0#4))

/-- EQ, opcode `0x20`, for all operands by the word of SUB: 1 exactly for identical words, two zeros, or a
zero-classified difference (R90). For words that are not NaN, the second not of coefficient `MINC`, that is exact: the
two words stand for the same number (corner case (d)). A different second word of coefficient `MINC` is compared as
the negative of its rounded negation, and at exponent 127, where that negation overflows, equals nothing. -/
def Obligations.EqIsExact : Prop :=
  (∀ (p : Port) (q : BitVec 64), decode ⟨0x20#8, p, q⟩ = .ok (.eq (p.extractLsb' 0 64) q)) ∧
  (∀ (a b : Word) (s : State), ∃ (w : Word) (f : FlagBits),
    exec (.sub a b) s = .next (s.offer (placeD w) f) ∧
    exec (.eq a b) s =
      .next (s.offer
        (if a = b ∨ (iszero a = true ∧ iszero b = true) ∨ iszero w = true then 1#128 else 0#128) 0#4)) ∧
  (∀ (a b : Word) (s : State), isnan a = false → isnan b = false → coef b ≠ MINC →
    exec (.eq a b) s = .next (s.offer (if value a = value b then 1#128 else 0#128) 0#4)) ∧
  (∀ (a b : Word) (s : State), isnan a = false → isnan b = false → coef b = MINC → a ≠ b →
    (expo b < MAXE → exec (.eq a b) s = exec (.eq a (word (-3602879701896397) (expo b + 1))) s) ∧
    (expo b = MAXE → exec (.eq a b) s = .next (s.offer 0#128 0#4)))

/-- CMP, opcode `0x21`, for all operands by the word of SUB: Equal for identical words, no order with a NaN, Equal for
a zero-classified difference, Greater for a positive coefficient of it, Less otherwise (R91). For words that are not
NaN, the second not of coefficient `MINC`, that is the true order of the two numbers, unless their difference
overflows; then two different words order as Less (corner cases (c) and (d)). A different second word of coefficient
`MINC` is compared as the negative of its rounded negation, and at exponent 127, where that negation overflows, every
other word is Less. -/
def Obligations.CmpIsTheTrueOrder : Prop :=
  (∀ (p : Port) (q : BitVec 64), decode ⟨0x21#8, p, q⟩ = .ok (.cmp (p.extractLsb' 0 64) q)) ∧
  (∀ (a b : Word) (s : State), ∃ (w : Word) (f : FlagBits),
    exec (.sub a b) s = .next (s.offer (placeD w) f) ∧
    exec (.cmp a b) s =
      .next (s.offer
        (if a = b then 0#128
         else if isnan a = true ∨ isnan b = true then 3#128
         else if iszero w = true then 0#128
         else if 0 < coef w then 1#128
         else 2#128) 0#4)) ∧
  (∀ (a b : Word) (s : State), isnan a = false → isnan b = false → coef b ≠ MINC →
    ((exec (.sub a b) s = .next (s.offer (placeD NAN) 3#4) ∧ a ≠ b) →
      exec (.cmp a b) s = .next (s.offer 2#128 0#4)) ∧
    (¬(exec (.sub a b) s = .next (s.offer (placeD NAN) 3#4) ∧ a ≠ b) →
      exec (.cmp a b) s =
        .next (s.offer (if value a = value b then 0#128 else if value b < value a then 1#128 else 2#128) 0#4))) ∧
  (∀ (a b : Word) (s : State), isnan a = false → isnan b = false → coef b = MINC → a ≠ b →
    (expo b < MAXE → exec (.cmp a b) s = exec (.cmp a (word (-3602879701896397) (expo b + 1))) s) ∧
    (expo b = MAXE → exec (.cmp a b) s = .next (s.offer 2#128 0#4)))

/-- A word compares equal to itself, NaN included; a NaN against any other word has no order and is not equal
(R90, R91). -/
def Obligations.NanComparesOnlyToItself : Prop :=
  (∀ (a : Word) (s : State),
    exec (.eq a a) s = .next (s.offer 1#128 0#4) ∧ exec (.cmp a a) s = .next (s.offer 0#128 0#4)) ∧
  (∀ (a b : Word) (s : State), a ≠ b → (isnan a = true ∨ isnan b = true) →
    exec (.eq a b) s = .next (s.offer 0#128 0#4) ∧ exec (.cmp a b) s = .next (s.offer 3#128 0#4))

/-! ### Arithmetic -/

/-- A NaN operand gives the canonical `NAN` with NANF alone, before any other test (R186; R100 to R104, R121, R123 to
R125). -/
def Obligations.NanOperandGivesNan : Prop :=
  (∀ (a b : Word) (s : State), (isnan a = true ∨ isnan b = true) →
    exec (.add a b) s = .next (s.offer 0x80#128 1#4) ∧ exec (.sub a b) s = .next (s.offer 0x80#128 1#4) ∧
    exec (.mul a b) s = .next (s.offer 0x80#128 1#4) ∧ exec (.div a b) s = .next (s.offer 0x80#128 1#4)) ∧
  (∀ (a : Word) (t : Int) (s : State), isnan a = true →
    exec (.neg a) s = .next (s.offer 0x80#128 1#4) ∧ exec (.abs a) s = .next (s.offer 0x80#128 1#4) ∧
    exec (.floor a) s = .next (s.offer 0x80#128 1#4) ∧ exec (.ceil a) s = .next (s.offer 0x80#128 1#4) ∧
    exec (.round a t) s = .next (s.offer 0x80#128 1#4))

/-- ADD and MUL are symmetric in their operands, word and flags (R105). -/
def Obligations.AddAndMulCommute : Prop :=
  ∀ (a b : Word) (s : State), exec (.add a b) s = exec (.add b a) s ∧ exec (.mul a b) s = exec (.mul b a) s

/-- ADD by its rule (R100): equal exponents keep the shared exponent when the sum fits and are packed when it does
not; a zero-classified word with the smaller exponent returns the other unchanged; otherwise the larger-exponent
coefficient is scaled down the greatest number `j` of places the 64-bit accumulator allows, the other loses its last
digits, and the sum is packed. -/
def Obligations.AddIsItsRule : Prop :=
  (∀ (p : Port) (q : BitVec 64), decode ⟨0x30#8, p, q⟩ = .ok (.add (p.extractLsb' 0 64) q)) ∧
  ∀ (a b : Word) (s : State),
    ((isnan a = true ∨ isnan b = true) → exec (.add a b) s = .next (s.offer (placeD NAN) 1#4)) ∧
    (isnan a = false → isnan b = false → expo a = expo b →
      exec (.add a b) s =
        if inCoefRange (coef a + coef b) = true then .next (s.offer (placeD (word (coef a + coef b) (expo a))) 0#4)
        else exec (.pack (coef a + coef b) (expo a)) s) ∧
    (isnan a = false → isnan b = false → expo b < expo a →
      (coef b = 0 →
        exec (.add a b) s = .next (s.offer (placeD a) 0#4) ∧ exec (.add b a) s = .next (s.offer (placeD a) 0#4)) ∧
      (coef b ≠ 0 → ∀ j : Nat, j ≤ (expo a - expo b).toNat → inAccumulator (10 ^ j * coef a) = true →
        (j < (expo a - expo b).toNat → inAccumulator (10 ^ (j + 1) * coef a) = false) →
        exec (.add a b) s =
          exec (.pack (10 ^ j * coef a + tdiv (coef b) (10 ^ ((expo a - expo b).toNat - j))) (expo a - j)) s ∧
        exec (.add b a) s =
          exec (.pack (10 ^ j * coef a + tdiv (coef b) (10 ^ ((expo a - expo b).toNat - j))) (expo a - j)) s))

/-- ADD is exact whenever the sum at the smaller exponent is in coefficient range (R100). -/
def Obligations.AddIsExactWhenItFits : Prop :=
  ∀ (a b : Word) (s : State), isnan a = false → isnan b = false →
    inCoefRange
      (coef a * 10 ^ (expo a - min (expo a) (expo b)).toNat +
        coef b * 10 ^ (expo b - min (expo a) (expo b)).toNat) = true →
    ∃ w : Word, exec (.add a b) s = .next (s.offer (placeD w) 0#4) ∧ isnan w = false ∧
      value w = value a + value b

/-- SUB is `a + (-b)`, with the overflow of the negation kept, and never sets UNF (R101). -/
def Obligations.SubIsAddOfNegation : Prop :=
  (∀ (p : Port) (q : BitVec 64), decode ⟨0x31#8, p, q⟩ = .ok (.sub (p.extractLsb' 0 64) q)) ∧
  ∀ (a b : Word) (s : State),
    ((isnan a = true ∨ isnan b = true) → exec (.sub a b) s = .next (s.offer (placeD NAN) 1#4)) ∧
    (∀ n : Word, isnan a = false → exec (.neg b) s = .next (s.offer (placeD n) 0#4) →
      exec (.sub a b) s = exec (.add a n) s) ∧
    (isnan a = false → exec (.neg b) s = .next (s.offer (placeD NAN) 3#4) →
      exec (.sub a b) s = .next (s.offer (placeD NAN) 3#4)) ∧
    (∃ (w : Word) (f : FlagBits), exec (.sub a b) s = .next (s.offer (placeD w) f) ∧ f.getLsbD 2 = false)

/-- NEG by cases (R102): NaN; zero; `MINC`, which rounds and overflows only at exponent 127; any other word keeps its
exponent and negates its coefficient, and so its number. -/
def Obligations.NegNegates : Prop :=
  (∀ (p : Port) (q : BitVec 64), decode ⟨0x32#8, p, q⟩ = .ok (.neg (p.extractLsb' 0 64))) ∧
  ∀ (a : Word) (s : State),
    (isnan a = true → exec (.neg a) s = .next (s.offer (placeD NAN) 1#4)) ∧
    (iszero a = true → exec (.neg a) s = .next (s.offer (placeD ZERO) 0#4)) ∧
    (isnan a = false → coef a = MINC → expo a < MAXE →
      exec (.neg a) s = .next (s.offer (placeD (word 3602879701896397 (expo a + 1))) 0#4)) ∧
    (isnan a = false → coef a = MINC → expo a = MAXE → exec (.neg a) s = .next (s.offer (placeD NAN) 3#4)) ∧
    (isnan a = false → coef a ≠ 0 → coef a ≠ MINC →
      exec (.neg a) s = .next (s.offer (placeD (word (-coef a) (expo a))) 0#4) ∧
      value (word (-coef a) (expo a)) = -value a)

/-- Negating twice gives the word back bit for bit, unless its coefficient is 0 or `MINC` (R105). -/
def Obligations.DoubleNegationIsIdentity : Prop :=
  ∀ (a n : Word) (f : FlagBits) (s : State), isnan a = false → coef a ≠ 0 → coef a ≠ MINC →
    exec (.neg a) s = .next (s.offer (placeD n) f) → exec (.neg n) s = .next (s.offer (placeD a) 0#4)

/-- MUL by its rule (R103), loop (a) in closed form: `n` is the least number of divisions by ten that brings the
product into coefficient range and the exponent up to `MINE`. -/
def Obligations.MulIsItsRule : Prop :=
  (∀ (p : Port) (q : BitVec 64), decode ⟨0x33#8, p, q⟩ = .ok (.mul (p.extractLsb' 0 64) q)) ∧
  ∀ (a b : Word) (s : State),
    ((isnan a = true ∨ isnan b = true) → exec (.mul a b) s = .next (s.offer (placeD NAN) 1#4)) ∧
    (isnan a = false → isnan b = false → (coef a = 0 ∨ coef b = 0) →
      exec (.mul a b) s = .next (s.offer (placeD ZERO) 0#4)) ∧
    (isnan a = false → isnan b = false → coef a ≠ 0 → coef b ≠ 0 →
      ∀ (n : Nat) (p e d : Int), p = tdiv (coef a * coef b) (10 ^ n) → e = expo a + expo b + n →
        d = (if n = 0 then 0 else trem (tdiv (coef a * coef b) (10 ^ (n - 1))) 10) →
        inCoefRange p = true → MINE ≤ e →
        (∀ i : Nat, i < n →
          ¬(inCoefRange (tdiv (coef a * coef b) (10 ^ i)) = true ∧ MINE ≤ expo a + expo b + i)) →
        exec (.mul a b) s =
          if inCoefRange (10 ^ (e - MAXE).toNat * p) = true then
            if rha (10 ^ (e - MAXE).toNat * p) d = 0 then .next (s.offer (placeD ZERO) 4#4)
            else exec (.pack (rha (10 ^ (e - MAXE).toNat * p) d) (min e MAXE)) s
          else .next (s.offer (placeD NAN) 3#4))

/-- MUL is exact when the product of the coefficients and the sum of the exponents are in range (R103). -/
def Obligations.MulIsExactWhenItFits : Prop :=
  ∀ (a b : Word) (s : State), isnan a = false → isnan b = false → coef a ≠ 0 → coef b ≠ 0 →
    inCoefRange (coef a * coef b) = true → MINE ≤ expo a + expo b → expo a + expo b ≤ MAXE →
    exec (.mul a b) s = .next (s.offer (placeD (word (coef a * coef b) (expo a + expo b))) 0#4) ∧
    value (word (coef a * coef b) (expo a + expo b)) = value a * value b

/-- DIV by its rule (R104): NaN, then zero divisor, then zero dividend; otherwise the dividend is scaled by ten the
least number `k` of times after which the remainder is 0 or one more digit would not fit, the quotient is truncated,
and the exponent is tested without rescaling. That `k` is at most 34 is the spec's own inference in R104 and the
model's bound `divSteps` (notes/assumptions/14.md). -/
def Obligations.DivIsItsRule : Prop :=
  (∀ (p : Port) (q : BitVec 64), decode ⟨0x34#8, p, q⟩ = .ok (.div (p.extractLsb' 0 64) q)) ∧
  ∀ (a b : Word) (s : State),
    ((isnan a = true ∨ isnan b = true) → exec (.div a b) s = .next (s.offer (placeD NAN) 1#4)) ∧
    (isnan a = false → iszero b = true → exec (.div a b) s = .next (s.offer (placeD NAN) 1#4)) ∧
    (iszero a = true → isnan b = false → coef b ≠ 0 → exec (.div a b) s = .next (s.offer (placeD ZERO) 0#4)) ∧
    (isnan a = false → isnan b = false → coef a ≠ 0 → coef b ≠ 0 →
      ∃ k : Nat, k ≤ 34 ∧
        (10 ^ k * coef a - tdiv (10 ^ k * coef a) (coef b) * coef b = 0 ∨
          inCoefRange (tdiv (10 ^ (k + 1) * coef a) (coef b)) = false) ∧
        (∀ i : Nat, i < k →
          10 ^ i * coef a - tdiv (10 ^ i * coef a) (coef b) * coef b ≠ 0 ∧
          inCoefRange (tdiv (10 ^ (i + 1) * coef a) (coef b)) = true) ∧
        exec (.div a b) s =
          if MAXE < expo a - expo b - k then .next (s.offer (placeD NAN) 3#4)
          else if expo a - expo b - k < MINE then .next (s.offer (placeD ZERO) 4#4)
          else exec (.pack (tdiv (10 ^ k * coef a) (coef b)) (expo a - expo b - k)) s)

/-! ### Derived operations -/

/-- SIGN is 0 for a zero-classified word and otherwise the sign of the coefficient field's top bit, NaN included
(R120). -/
def Obligations.SignFollowsTheTopBit : Prop :=
  (∀ (p : Port) (q : BitVec 64), decode ⟨0x40#8, p, q⟩ = .ok (.sign (p.extractLsb' 0 64))) ∧
  ∀ (a : Word) (s : State),
    exec (.sign a) s =
      .next (s.offer (BitVec.ofInt 128 (if iszero a = true then 0 else if coef a < 0 then -1 else 1)) 0#4)

/-- ABS by cases (R121): NaN; zero; `MINC`, which rounds and overflows only at exponent 127; any other word keeps its
exponent. -/
def Obligations.AbsTakesTheMagnitude : Prop :=
  (∀ (p : Port) (q : BitVec 64), decode ⟨0x41#8, p, q⟩ = .ok (.abs (p.extractLsb' 0 64))) ∧
  ∀ (a : Word) (s : State),
    (isnan a = true → exec (.abs a) s = .next (s.offer (placeD NAN) 1#4)) ∧
    (iszero a = true → exec (.abs a) s = .next (s.offer (placeD ZERO) 0#4)) ∧
    (isnan a = false → coef a = MINC → expo a < MAXE →
      exec (.abs a) s = .next (s.offer (placeD (word 3602879701896397 (expo a + 1))) 0#4)) ∧
    (isnan a = false → coef a = MINC → expo a = MAXE → exec (.abs a) s = .next (s.offer (placeD NAN) 3#4)) ∧
    (isnan a = false → coef a ≠ 0 → coef a ≠ MINC →
      exec (.abs a) s = .next (s.offer (placeD (word |coef a| (expo a))) 0#4) ∧
      value (word |coef a| (expo a)) = |value a|)

/-- ISINT answers 1 exactly when the word is not NaN and stands for an integer (R122). -/
def Obligations.IsintTestsIntegrality : Prop :=
  ∀ (a : Word) (s : State),
    ((isnan a = false ∧ ∃ z : Int, value a = z) → exec (.isint a) s = .next (s.offer 1#128 0#4)) ∧
    (¬(isnan a = false ∧ ∃ z : Int, value a = z) → exec (.isint a) s = .next (s.offer 0#128 0#4))

/-- FLOOR, opcode `0x43`, of a non-NaN word (R123): at an exponent of 0 or more the operand bit for bit, denormal zeros
too; at -19 or less `(-1, 0)` for a negative coefficient and `ZERO` for any other; in between, the coefficient brought
down to a multiple of the scaled one, packed at the operand's exponent. In every case no flag is set, and the result
stands for the greatest integer not above the operand's number. -/
def Obligations.FloorIsGreatestInteger : Prop :=
  (∀ (p : Port) (q : BitVec 64), decode ⟨0x43#8, p, q⟩ = .ok (.floor (p.extractLsb' 0 64))) ∧
  ∀ (a : Word) (s : State), isnan a = false →
    (0 ≤ expo a → exec (.floor a) s = .next (s.offer (placeD a) 0#4)) ∧
    (expo a ≤ -19 →
      exec (.floor a) s = .next (s.offer (placeD (if coef a < 0 then word (-1) 0 else ZERO)) 0#4)) ∧
    (-19 < expo a → expo a < 0 →
      exec (.floor a) s =
        exec (.pack (coef a / 10 ^ (-expo a).toNat * 10 ^ (-expo a).toNat) (expo a)) s) ∧
    ∃ w : Word, exec (.floor a) s = .next (s.offer (placeD w) 0#4) ∧ isnan w = false ∧
      value w = ((⌊value a⌋ : Int) : ℚ)

/-- CEIL, opcode `0x44`, of a non-NaN word (R124): at an exponent of 0 or more the operand bit for bit, denormal zeros
too; at -19 or less `(1, 0)` for a positive coefficient and `ZERO` for any other; in between, the coefficient brought
up to a multiple of the scaled one, packed at the operand's exponent. In every case no flag is set, and the result
stands for the least integer not below the operand's number. -/
def Obligations.CeilIsLeastInteger : Prop :=
  (∀ (p : Port) (q : BitVec 64), decode ⟨0x44#8, p, q⟩ = .ok (.ceil (p.extractLsb' 0 64))) ∧
  ∀ (a : Word) (s : State), isnan a = false →
    (0 ≤ expo a → exec (.ceil a) s = .next (s.offer (placeD a) 0#4)) ∧
    (expo a ≤ -19 →
      exec (.ceil a) s = .next (s.offer (placeD (if 0 < coef a then word 1 0 else ZERO)) 0#4)) ∧
    (-19 < expo a → expo a < 0 →
      exec (.ceil a) s =
        exec (.pack (-(-coef a / 10 ^ (-expo a).toNat) * 10 ^ (-expo a).toNat) (expo a)) s) ∧
    ∃ w : Word, exec (.ceil a) s = .next (s.offer (placeD w) 0#4) ∧ isnan w = false ∧
      value w = ((⌈value a⌉ : Int) : ℚ)

/-- FLOOR and CEIL bracket the operand in the unit's own ordering, are integers, and are equal exactly when the
operand is an integer (R126). -/
def Obligations.FloorAndCeilBracketTheOperand : Prop :=
  ∀ (x : Word) (s : State), isnan x = false →
    ∃ f g : Word,
      exec (.floor x) s = .next (s.offer (placeD f) 0#4) ∧ exec (.ceil x) s = .next (s.offer (placeD g) 0#4) ∧
      isnan f = false ∧ isnan g = false ∧
      exec (.isint f) s = .next (s.offer 1#128 0#4) ∧ exec (.isint g) s = .next (s.offer 1#128 0#4) ∧
      (exec (.cmp f x) s = .next (s.offer 0#128 0#4) ∨ exec (.cmp f x) s = .next (s.offer 2#128 0#4)) ∧
      (exec (.cmp x g) s = .next (s.offer 0#128 0#4) ∨ exec (.cmp x g) s = .next (s.offer 2#128 0#4)) ∧
      (exec (.eq f g) s = .next (s.offer 1#128 0#4) ↔ exec (.isint x) s = .next (s.offer 1#128 0#4))

/-- ROUND of a non-NaN word returns it unchanged when its exponent is at least the target; otherwise it packs the
multiple `q * 10^t` nearest to the operand's number, ties away from zero (R125). -/
def Obligations.RoundTakesTheNearestMultiple : Prop :=
  ∀ (a : Word) (t : Int) (s : State), isnan a = false →
    (t ≤ expo a → exec (.round a t) s = .next (s.offer (placeD a) 0#4)) ∧
    (expo a < t → ∃ q : Int,
      2 * |value a - q * (10 : ℚ) ^ t| ≤ (10 : ℚ) ^ t ∧
      (2 * |value a - q * (10 : ℚ) ^ t| = (10 : ℚ) ^ t → |value a| < |q * (10 : ℚ) ^ t|) ∧
      exec (.round a t) s = exec (.pack q t) s)

/-! ### Conversions -/

/-- All ten from-integer operations are PACK of the integer at exponent 0, for every integer of up to 128 bits
(R166). -/
def Obligations.FromIntegerIsPack : Prop :=
  ∀ (v : Int) (s : State), -(2 : Int) ^ 127 ≤ v → v < (2 : Int) ^ 128 →
    ∀ i ∈ [Instr.fromi8 v, .fromi16 v, .fromi32 v, .fromi64 v, .fromi128 v, .fromu8 v, .fromu16 v, .fromu32 v,
      .fromu64 v, .fromu128 v], exec i s = exec (.pack v 0) s

/-- An integer in coefficient range becomes the word with that coefficient and exponent 0, and no flag is set, in
all ten from-integer operations (R146 to R155). -/
def Obligations.FromIntegerKeepsWhatFits : Prop :=
  ∀ (v : Int) (s : State), MINC ≤ v → v ≤ MAXC →
    ∀ i ∈ [Instr.fromi8 v, .fromi16 v, .fromi32 v, .fromi64 v, .fromi128 v, .fromu8 v, .fromu16 v, .fromu32 v,
      .fromu64 v, .fromu128 v], exec i s = .next (s.offer (placeD (word v 0)) 0#4) ∧ value (word v 0) = v

/-- The ten to-integer operations: the coefficient, or the coefficient times the power of ten when the exponent is
positive, wrapped to the opcode's width and extended to 128 bits; no class and no range is tested and no flag set
(R156 to R165, R169). -/
def Obligations.ToIntegerWraps : Prop :=
  (∀ (p : Port) (q : BitVec 64), decode ⟨0x70#8, p, q⟩ = .ok (.toi8 (p.extractLsb' 0 64))) ∧
  (∀ (p : Port) (q : BitVec 64), decode ⟨0x71#8, p, q⟩ = .ok (.toi16 (p.extractLsb' 0 64))) ∧
  (∀ (p : Port) (q : BitVec 64), decode ⟨0x72#8, p, q⟩ = .ok (.toi32 (p.extractLsb' 0 64))) ∧
  (∀ (p : Port) (q : BitVec 64), decode ⟨0x73#8, p, q⟩ = .ok (.toi64 (p.extractLsb' 0 64))) ∧
  (∀ (p : Port) (q : BitVec 64), decode ⟨0x74#8, p, q⟩ = .ok (.toi128 (p.extractLsb' 0 64))) ∧
  (∀ (p : Port) (q : BitVec 64), decode ⟨0x78#8, p, q⟩ = .ok (.tou8 (p.extractLsb' 0 64))) ∧
  (∀ (p : Port) (q : BitVec 64), decode ⟨0x79#8, p, q⟩ = .ok (.tou16 (p.extractLsb' 0 64))) ∧
  (∀ (p : Port) (q : BitVec 64), decode ⟨0x7A#8, p, q⟩ = .ok (.tou32 (p.extractLsb' 0 64))) ∧
  (∀ (p : Port) (q : BitVec 64), decode ⟨0x7B#8, p, q⟩ = .ok (.tou64 (p.extractLsb' 0 64))) ∧
  (∀ (p : Port) (q : BitVec 64), decode ⟨0x7C#8, p, q⟩ = .ok (.tou128 (p.extractLsb' 0 64))) ∧
  ∀ (a : Word) (s : State) (v : Int), v = (if expo a ≤ 0 then coef a else coef a * 10 ^ (expo a).toNat) →
    exec (.toi8 a) s = .next (s.offer ((BitVec.ofInt 8 v).signExtend 128) 0#4) ∧
    exec (.toi16 a) s = .next (s.offer ((BitVec.ofInt 16 v).signExtend 128) 0#4) ∧
    exec (.toi32 a) s = .next (s.offer ((BitVec.ofInt 32 v).signExtend 128) 0#4) ∧
    exec (.toi64 a) s = .next (s.offer ((BitVec.ofInt 64 v).signExtend 128) 0#4) ∧
    exec (.toi128 a) s = .next (s.offer (BitVec.ofInt 128 v) 0#4) ∧
    exec (.tou8 a) s = .next (s.offer ((BitVec.ofInt 8 v).setWidth 128) 0#4) ∧
    exec (.tou16 a) s = .next (s.offer ((BitVec.ofInt 16 v).setWidth 128) 0#4) ∧
    exec (.tou32 a) s = .next (s.offer ((BitVec.ofInt 32 v).setWidth 128) 0#4) ∧
    exec (.tou64 a) s = .next (s.offer ((BitVec.ofInt 64 v).setWidth 128) 0#4) ∧
    exec (.tou128 a) s = .next (s.offer (BitVec.ofInt 128 v) 0#4)

/-- From an integer to a word and back gives the integer, for every one in coefficient range that fits the width
(R170): with `v` signed in `N` bits through FROMI and TOI, with `v` unsigned through FROMU and TOU. -/
def Obligations.IntegerRoundTrips : Prop :=
  ∀ (v : Int) (s : State) (w : Word), MINC ≤ v → v ≤ MAXC →
    (∀ p ∈ [(8, Instr.fromi8 v, Instr.toi8 w), (16, .fromi16 v, .toi16 w), (32, .fromi32 v, .toi32 w),
        (64, .fromi64 v, .toi64 w), (128, .fromi128 v, .toi128 w)],
      signedFits p.1 v = true → exec p.2.1 s = .next (s.offer (placeD w) 0#4) →
      exec p.2.2 s = .next (s.offer (BitVec.ofInt 128 v) 0#4)) ∧
    (∀ p ∈ [(8, Instr.fromu8 v, Instr.tou8 w), (16, .fromu16 v, .tou16 w), (32, .fromu32 v, .tou32 w),
        (64, .fromu64 v, .tou64 w), (128, .fromu128 v, .tou128 w)],
      unsignedFits p.1 v = true → exec p.2.1 s = .next (s.offer (placeD w) 0#4) →
      exec p.2.2 s = .next (s.offer (BitVec.ofInt 128 v) 0#4))

/-- TOF32 and TOF64: the quiet NaN for a NaN, `+0.0` for a zero, otherwise the product of the cast coefficient and
the implementation's power of ten; no flag is set (R140, R142). What the cast and the product are is said by
`FloatRoundingIsNearestEven`. -/
def Obligations.ToFloatByClass : Prop :=
  ∀ (a : Word) (s : State),
    (isnan a = true →
      exec (.tof32 a) s = .next (s.offer 0x7FC00000#128 0#4) ∧
      exec (.tof64 a) s = .next (s.offer 0x7FF8000000000000#128 0#4)) ∧
    (iszero a = true →
      exec (.tof32 a) s = .next (s.offer 0#128 0#4) ∧ exec (.tof64 a) s = .next (s.offer 0#128 0#4)) ∧
    (isnan a = false → iszero a = false →
      exec (.tof32 a) s =
        .next (s.offer (placeF (BitVec.ofNat 32 (binary32.mult (binary32.ofInt (coef a)) (pow10_32 (expo a))))) 0#4) ∧
      exec (.tof64 a) s =
        .next (s.offer (placeF (BitVec.ofNat 64 (binary64.mult (binary64.ofInt (coef a)) (pow10_64 (expo a))))) 0#4))

/-- The power-of-ten parameters are never NaN, never negative, and 1.0 at exponent 0 (R141). -/
def Obligations.PowersOfTenAreConstrained : Prop :=
  (∀ e : Int, binary32.value (pow10_32 e) ≠ .nan ∧ binary32.negative (pow10_32 e) = false ∧
    binary64.value (pow10_64 e) ≠ .nan ∧ binary64.negative (pow10_64 e) = false) ∧
  pow10_32 0 = 0x3F800000 ∧ pow10_64 0 = 0x3FF0000000000000

/-- A word with exponent 0 converts to the rounded cast of its coefficient, whatever the power-of-ten parameter, with
the coefficient's sign, and with exactly its magnitude when that is at most two to the precision (R140, R142 with
R141). -/
def Obligations.ToFloatAtExponentZero : Prop :=
  ∀ (a : Word) (s : State), expo a = 0 →
    exec (.tof32 a) s = .next (s.offer (placeF (BitVec.ofNat 32 (binary32.ofInt (coef a)))) 0#4) ∧
    exec (.tof64 a) s = .next (s.offer (placeF (BitVec.ofNat 64 (binary64.ofInt (coef a)))) 0#4) ∧
    binary32.negative (binary32.ofInt (coef a)) = decide (coef a < 0) ∧
    binary64.negative (binary64.ofInt (coef a)) = decide (coef a < 0) ∧
    ((coef a).natAbs ≤ 2 ^ 24 →
      binary32.magnitude (binary32.ofInt (coef a) % 2 ^ 31) = ((coef a).natAbs : ℚ)) ∧
    ((coef a).natAbs ≤ 2 ^ 53 →
      binary64.magnitude (binary64.ofInt (coef a) % 2 ^ 63) = ((coef a).natAbs : ℚ))

/-- FROMF32 and FROMF64 of a float NaN, an infinity and a zero (R143, R145). -/
def Obligations.FromFloatSpecials : Prop :=
  (∀ (x : BitVec 32) (s : State),
    (x.extractLsb' 23 8 = 0xFF#8 → x.extractLsb' 0 23 ≠ 0#23 →
      exec (.fromf32 x) s = .next (s.offer 0x80#128 1#4)) ∧
    (x.extractLsb' 23 8 = 0xFF#8 → x.extractLsb' 0 23 = 0#23 →
      exec (.fromf32 x) s = .next (s.offer 0x80#128 3#4)) ∧
    (x.extractLsb' 0 31 = 0#31 → exec (.fromf32 x) s = .next (s.offer 0#128 0#4))) ∧
  (∀ (x : BitVec 64) (s : State),
    (x.extractLsb' 52 11 = 0x7FF#11 → x.extractLsb' 0 52 ≠ 0#52 →
      exec (.fromf64 x) s = .next (s.offer 0x80#128 1#4)) ∧
    (x.extractLsb' 52 11 = 0x7FF#11 → x.extractLsb' 0 52 = 0#52 →
      exec (.fromf64 x) s = .next (s.offer 0x80#128 3#4)) ∧
    (x.extractLsb' 0 63 = 0#63 → exec (.fromf64 x) s = .next (s.offer 0#128 0#4)))

/-- FROMF32 and FROMF64 of a finite non-zero float: the digit search succeeds, and the digits with the float's sign
are packed (R143 to R145). -/
def Obligations.FromFloatPacksShortestDigits : Prop :=
  (∀ (x : BitVec 32) (s : State), x.extractLsb' 23 8 ≠ 0xFF#8 → x.extractLsb' 0 31 ≠ 0#31 →
    ∃ (m : Nat) (k : Int), binary32.shortest (x.toNat % 2 ^ 31) = some (m, k) ∧ m ≠ 0 ∧
      exec (.fromf32 x) s = exec (.pack (if x.msb then -(m : Int) else m) k) s) ∧
  (∀ (x : BitVec 64) (s : State), x.extractLsb' 52 11 ≠ 0x7FF#11 → x.extractLsb' 0 63 ≠ 0#63 →
    ∃ (m : Nat) (k : Int), binary64.shortest (x.toNat % 2 ^ 63) = some (m, k) ∧ m ≠ 0 ∧
      exec (.fromf64 x) s = exec (.pack (if x.msb then -(m : Int) else m) k) s)

/-- The shortest digits, if the search gives them: they have no trailing zero and parse back to the float they came from
(R144 property (1)); no decimal with fewer digits does (2); and of those with as many digits that do, none is nearer
to the float, and where another is equally near, the last digit is even (3). -/
def Obligations.ShortestDigitsRoundTrip : Prop :=
  ∀ F ∈ [binary32, binary64], ∀ (x m : Nat) (k : Int), 0 < x → x < F.infinity → F.shortest x = some (m, k) →
    m % 10 ≠ 0 ∧ F.roundMagnitude (m * powNum 10 k) (powDen 10 k) = x ∧
    ∀ (m' : Nat) (k' : Int), F.roundMagnitude (m' * powNum 10 k') (powDen 10 k') = x →
      (Nat.digits 10 m).length ≤ (Nat.digits 10 m').length ∧
      ((Nat.digits 10 m').length = (Nat.digits 10 m).length →
        |(m : ℚ) * (10 : ℚ) ^ k - F.magnitude x| ≤ |(m' : ℚ) * (10 : ℚ) ^ k' - F.magnitude x| ∧
        (|(m : ℚ) * (10 : ℚ) ^ k - F.magnitude x| = |(m' : ℚ) * (10 : ℚ) ^ k' - F.magnitude x| →
          (m' : ℚ) * (10 : ℚ) ^ k' = (m : ℚ) * (10 : ℚ) ^ k ∨ m % 2 = 0))

/-- The two binary formats by R167: what a pattern stands for, by its sign, exponent and fraction fields; `RN_N` of a
fraction, and of an integer with its sign, is the nearest value, ties to even, and infinity from halfway past the
largest finite value on; `MULT_N` is `RN_N` of the exact product of two finite values, the sign the exclusive-or of
the signs, infinity when one operand is infinite and the other is not zero, and the quiet NaN for a NaN operand or
infinity times zero. -/
def Obligations.FloatRoundingIsNearestEven : Prop :=
  ∀ F ∈ [binary32, binary64],
    (∀ (sgn : Bool) (E M : Nat), E < 2 ^ F.w → M < 2 ^ (F.p - 1) →
      F.value (F.signed sgn (E * 2 ^ (F.p - 1) + M)) =
        if E = 2 ^ F.w - 1 then (if M = 0 then .infinite sgn else .nan)
        else if E = 0 then .finite sgn M (F.emin - (F.p - 1))
        else .finite sgn (2 ^ (F.p - 1) + M) (E - F.bias - (F.p - 1))) ∧
    (∀ num den : Nat, 0 < den → F.IsRounded ((num : ℚ) / den) (F.roundMagnitude num den)) ∧
    (∀ c : Int, F.IsRounded |(c : ℚ)| (F.ofInt c % 2 ^ (F.w + F.p - 1)) ∧
      F.negative (F.ofInt c) = decide (c < 0)) ∧
    (∀ (x y : Nat) (σ τ : Bool) (f g : Nat) (q r : Int),
      F.value x = .finite σ f q → F.value y = .finite τ g r →
      F.IsRounded ((f : ℚ) * (2 : ℚ) ^ q * ((g : ℚ) * (2 : ℚ) ^ r)) (F.mult x y % 2 ^ (F.w + F.p - 1)) ∧
      F.negative (F.mult x y) = (σ != τ)) ∧
    (∀ x y : Nat, (F.value x = .nan ∨ F.value y = .nan) → F.mult x y = F.quietNaN) ∧
    (∀ (x y : Nat) (σ τ : Bool), F.value x = .infinite σ → F.value y = .infinite τ →
      F.mult x y = F.signed (σ != τ) F.infinity) ∧
    (∀ (x y : Nat) (σ τ : Bool) (f : Nat) (q : Int), F.value x = .infinite σ → F.value y = .finite τ f q →
      F.mult x y = (if f = 0 then F.quietNaN else F.signed (σ != τ) F.infinity) ∧
      F.mult y x = (if f = 0 then F.quietNaN else F.signed (σ != τ) F.infinity))
end

