-- ==== Sys2Proof/Laws/Value.lean ====
section
/-! SUPPORT. The fields of a word: bounds, classes by coefficient and exponent, and word assembly undone. -/

namespace Sys2Proof.Machine

theorem inCoefRange_iff {c : Int} : inCoefRange c = true ↔ MINC ≤ c ∧ c ≤ MAXC := by simp [inCoefRange]

theorem inAccumulator_iff {x : Int} :
    inAccumulator x = true ↔ -9223372036854775808 ≤ x ∧ x ≤ 9223372036854775807 := by simp [inAccumulator]

theorem coef_bounds (w : Word) : MINC ≤ coef w ∧ coef w ≤ MAXC := by
  have h1 := BitVec.le_toInt (w.extractLsb' 8 56)
  have h2 := BitVec.toInt_lt (x := w.extractLsb' 8 56)
  simp only [coef, MINC, MAXC]
  omega

theorem expo_bounds (w : Word) : -128 ≤ expo w ∧ expo w ≤ MAXE := by
  have h1 := BitVec.le_toInt (w.extractLsb' 0 8)
  have h2 := BitVec.toInt_lt (x := w.extractLsb' 0 8)
  simp only [expo, MAXE]
  omega

theorem coef_word {c : Int} (h : inCoefRange c = true) (e : Int) : coef (word c e) = c := by
  obtain ⟨h1, h2⟩ := inCoefRange_iff.1 h
  have hx : (word c e).extractLsb' 8 56 = BitVec.ofInt 56 c := by
    unfold word; exact BitVec.extractLsb'_append_eq_left
  rw [coef, hx, BitVec.toInt_ofInt]
  simp only [MINC, MAXC] at h1 h2
  rw [Int.bmod_def]; split <;> omega

theorem expo_word (c : Int) {e : Int} (h1 : -128 ≤ e) (h2 : e ≤ 127) : expo (word c e) = e := by
  have hx : (word c e).extractLsb' 0 8 = BitVec.ofInt 8 e := by
    unfold word; exact BitVec.extractLsb'_append_eq_right
  rw [expo, hx, BitVec.toInt_ofInt, Int.bmod_def]
  split <;> omega

theorem word_coef_expo (w : Word) : word (coef w) (expo w) = w := by
  simp only [word, coef, expo, BitVec.ofInt_toInt]
  refine BitVec.eq_of_getLsbD_eq fun i hi => ?_
  have hi' : i < 64 := hi
  rw [BitVec.getLsbD_append]
  split
  · next h => simp [h]
  · next h =>
    simp only [BitVec.getLsbD_extractLsb', show i - 8 < 56 by omega, decide_true, Bool.true_and,
      show 8 + (i - 8) = i by omega]

theorem isnan_iff (w : Word) : isnan w = true ↔ expo w = -128 := by
  rw [isnan, expo, beq_iff_eq, ← BitVec.toInt_inj]
  rfl

theorem iszero_iff (w : Word) : iszero w = true ↔ coef w = 0 ∧ expo w ≠ -128 := by
  have hn := isnan_iff w
  have hz : w.extractLsb' 8 56 = 0#56 ↔ coef w = 0 := by
    rw [coef, ← BitVec.toInt_inj]; rfl
  simp only [isnan, beq_iff_eq] at hn
  simp only [iszero, Bool.and_eq_true, beq_iff_eq, bne_iff_ne, ne_eq, hz, hn]

theorem coef_ZERO : coef ZERO = 0 := by decide
theorem expo_ZERO : expo ZERO = 0 := by decide
theorem coef_NAN : coef NAN = 0 := by decide
theorem expo_NAN : expo NAN = -128 := by decide

end Sys2Proof.Machine
end

