-- ==== Sys2Proof/Laws/Pack.lean ====
section
/-! SUPPORT. What the loops of `pack`, ADD, MUL, DIV and the from-integer template can do, one lemma per loop. -/

namespace Sys2Proof.Machine

theorem tdiv_natAbs_ten (c : Int) : (tdiv c 10).natAbs = c.natAbs / 10 := by
  simp only [tdiv, Int.natAbs_tdiv]
  rfl

theorem tdiv_tdiv_ten_pow_nat (n k : Nat) : ((n : Int).tdiv 10).tdiv (10 ^ k) = (n : Int).tdiv (10 ^ (k + 1)) := by
  have h : ∀ m : Nat, (n : Int).tdiv (10 ^ m) = ((n / 10 ^ m : Nat) : Int) := fun m => by
    rw [show (10 : Int) ^ m = ((10 ^ m : Nat) : Int) by push_cast; rfl]; rfl
  have h1 : (n : Int).tdiv 10 = ((n / 10 : Nat) : Int) := rfl
  have h2 : ((n / 10 : Nat) : Int).tdiv (10 ^ k) = ((n / 10 / 10 ^ k : Nat) : Int) := by
    rw [show (10 : Int) ^ k = ((10 ^ k : Nat) : Int) by push_cast; rfl]; rfl
  rw [h1, h2, h, Nat.div_div_eq_div_mul, pow_succ, mul_comm]

theorem tdiv_comm_nat (m n : Nat) : ((m : Int).tdiv 10).tdiv (10 ^ n) = ((m : Int).tdiv (10 ^ n)).tdiv 10 := by
  have h : ((10 : Int) ^ n) = ((10 ^ n : Nat) : Int) := by push_cast; rfl
  rw [h]
  exact congrArg (Nat.cast (R := Int)) (Nat.div_div_eq_div_mul m 10 (10 ^ n) |>.trans
    ((congrArg (m / ·) (Nat.mul_comm 10 (10 ^ n))).trans (Nat.div_div_eq_div_mul m (10 ^ n) 10).symm))

theorem tdiv_tdiv_ten_pow (c : Int) (k : Nat) : tdiv (tdiv c 10) (10 ^ k) = tdiv c (10 ^ (k + 1)) := by
  simp only [tdiv]
  obtain ⟨n, rfl | rfl⟩ := c.eq_nat_or_neg
  · exact tdiv_tdiv_ten_pow_nat n k
  · rw [Int.neg_tdiv, Int.neg_tdiv, Int.neg_tdiv, tdiv_tdiv_ten_pow_nat]

/-- `scaleUp` multiplies by ten some `j` of the at most `k` times, every product on the way fits, and it stops short
of `k` only where the next product does not. -/
theorem scaleUp_spec (fits : Int → Bool) (k : Nat) (c : Int) :
    ∃ j, j ≤ k ∧ scaleUp fits k c = (10 ^ j * c, k - j) ∧
      (∀ i, 1 ≤ i → i ≤ j → fits (10 ^ i * c) = true) ∧ (j < k → fits (10 ^ (j + 1) * c) = false) := by
  induction k generalizing c with
  | zero => exact ⟨0, le_rfl, by simp [scaleUp], by omega, by omega⟩
  | succ k ih =>
    cases hf : fits (10 * c) with
    | false => exact ⟨0, by omega, by simp [scaleUp, hf], by omega, by simpa using hf⟩
    | true =>
      obtain ⟨j, hj, he, hfit, hstop⟩ := ih (10 * c)
      have hmul : ∀ n : Nat, (10 : Int) ^ n * (10 * c) = 10 ^ (n + 1) * c := fun n => by rw [pow_succ]; ring
      refine ⟨j + 1, by omega, ?_, ?_, ?_⟩
      · simp [scaleUp, hf, he, hmul]
      · intro i hi hij
        obtain ⟨n, rfl⟩ : ∃ n, i = n + 1 := ⟨i - 1, by omega⟩
        rcases Nat.eq_zero_or_pos n with rfl | hn
        · simpa using hf
        · rw [← hmul]; exact hfit n hn (by omega)
      · intro h; rw [← hmul]; exact hstop (by omega)

/-- `liftSteps` gives the least positive number of divisions that brings the coefficient into range, if the budget
allows it. -/
theorem liftSteps_some {k : Nat} {c q d : Int} {k' : Nat} (h : liftSteps k c = some (q, d, k')) :
    ∃ j, 1 ≤ j ∧ k = k' + j ∧ q = tdiv c (10 ^ j) ∧ d = trem (tdiv c (10 ^ (j - 1))) 10 ∧
      inCoefRange q = true ∧ ∀ i, 1 ≤ i → i < j → inCoefRange (tdiv c (10 ^ i)) = false := by
  induction k generalizing c with
  | zero => simp [liftSteps] at h
  | succ k ih =>
    rw [liftSteps] at h
    split at h
    · next hr =>
      simp only [Option.some.injEq, Prod.mk.injEq] at h
      obtain ⟨rfl, rfl, rfl⟩ := h
      exact ⟨1, le_rfl, rfl, by simp, by simp [tdiv], hr, by omega⟩
    · next hr =>
      obtain ⟨j, hj, hk, hq, hd, hin, hout⟩ := ih h
      refine ⟨j + 1, by omega, by omega, by rw [hq, tdiv_tdiv_ten_pow], ?_, hin, ?_⟩
      · obtain ⟨n, rfl⟩ : ∃ n, j = n + 1 := ⟨j - 1, by omega⟩
        rw [hd]; simp only [Nat.add_sub_cancel]; rw [tdiv_tdiv_ten_pow]
      · intro i hi hij
        obtain ⟨n, rfl⟩ : ∃ n, i = n + 1 := ⟨i - 1, by omega⟩
        rcases Nat.eq_zero_or_pos n with rfl | hn
        · simpa using hr
        · rw [← tdiv_tdiv_ten_pow]; exact hout n hn (by omega)

/-- `liftSteps` fails only when no number of divisions within the budget is enough. -/
theorem liftSteps_none {k : Nat} {c : Int} (h : liftSteps k c = none) :
    ∀ i, 1 ≤ i → i ≤ k → inCoefRange (tdiv c (10 ^ i)) = false := by
  induction k generalizing c with
  | zero => omega
  | succ k ih =>
    rw [liftSteps] at h
    split at h
    · simp at h
    · next hr =>
      intro i hi hik
      obtain ⟨n, rfl⟩ : ∃ n, i = n + 1 := ⟨i - 1, by omega⟩
      rcases Nat.eq_zero_or_pos n with rfl | hn
      · simpa using hr
      · rw [← tdiv_tdiv_ten_pow]; exact ih h n hn (by omega)

/-- `dropSteps` is one division by a power of ten. -/
theorem dropSteps_eq (k : Nat) (c : Int) : dropSteps k c = tdiv c (10 ^ k) := by
  induction k generalizing c with
  | zero => simp [dropSteps, tdiv]
  | succ k ih =>
    rw [dropSteps]
    split
    · next h => simp [h, tdiv]
    · rw [ih, tdiv_tdiv_ten_pow]

theorem rha_bounds (q d : Int) : q - 1 ≤ rha q d ∧ rha q d ≤ q + 1 := by
  unfold rha; split
  · omega
  · split <;> omega

theorem not_inCoefRange_iff {c : Int} : inCoefRange c = false ↔ c < MINC ∨ MAXC < c := by
  rw [← Bool.not_eq_true, inCoefRange_iff]; omega

/-- One lift: the least positive number `j` of divisions that brings the coefficient into range, rounded on the last
digit, the exponent raised by `j` and still at most `MAXE`. -/
theorem liftRound_some {c e c1 e1 : Int} (h : liftRound c e = some (c1, e1)) :
    ∃ j : Nat, 1 ≤ j ∧ e1 = e + j ∧ e1 ≤ MAXE ∧
      c1 = rha (tdiv c (10 ^ j)) (trem (tdiv c (10 ^ (j - 1))) 10) ∧ inCoefRange (tdiv c (10 ^ j)) = true ∧
      ∀ i, 1 ≤ i → i < j → inCoefRange (tdiv c (10 ^ i)) = false := by
  unfold liftRound at h
  split at h
  · simp at h
  · next q d k hk =>
    simp only [Option.some.injEq, Prod.mk.injEq] at h
    obtain ⟨rfl, rfl⟩ := h
    obtain ⟨j, hj, hb, rfl, rfl, hin, hout⟩ := liftSteps_some hk
    exact ⟨j, hj, by omega, by omega, rfl, hin, hout⟩

/-- A lift of a coefficient out of range leaves it at most one unit out of range and far from 0. -/
theorem liftRound_bounds {c e c1 e1 : Int} (hc : inCoefRange c = false) (h : liftRound c e = some (c1, e1)) :
    MINC - 1 ≤ c1 ∧ c1 ≤ MAXC + 1 ∧ c1 ≠ 0 := by
  obtain ⟨j, hj, -, -, rfl, hin, hout⟩ := liftRound_some h
  have hprev : inCoefRange (tdiv c (10 ^ (j - 1))) = false := by
    rcases Nat.lt_or_ge 1 j with hlt | hle
    · exact hout _ (by omega) (by omega)
    · have : j - 1 = 0 := by omega
      simpa [this, tdiv] using hc
  have hstep : tdiv c (10 ^ j) = Int.tdiv (tdiv c (10 ^ (j - 1))) 10 := by
    obtain ⟨n, rfl⟩ : ∃ n, j = n + 1 := ⟨j - 1, by omega⟩
    simp only [tdiv, Nat.add_sub_cancel]
    obtain ⟨m, rfl | rfl⟩ := c.eq_nat_or_neg
    · rw [← tdiv_tdiv_ten_pow_nat]; exact tdiv_comm_nat m n
    · simp only [Int.neg_tdiv]; rw [← tdiv_tdiv_ten_pow_nat, tdiv_comm_nat m n]
  have hb := rha_bounds (tdiv c (10 ^ j)) (trem (tdiv c (10 ^ (j - 1))) 10)
  have hr := inCoefRange_iff.1 hin
  rw [not_inCoefRange_iff] at hprev
  have hq : tdiv c (10 ^ j) ≤ -3602879701896396 ∨ 3602879701896396 ≤ tdiv c (10 ^ j) := by
    have habs := tdiv_natAbs_ten (tdiv c (10 ^ (j - 1)))
    rw [hstep]; simp only [MINC, MAXC] at hprev; simp only [tdiv] at *; omega
  simp only [MINC, MAXC] at *
  omega

/-- A lift of a coefficient one unit out of range leaves it in range. -/
theorem liftRound_again {c e c1 e1 : Int} (hc : c = MINC - 1 ∨ c = MAXC + 1) (h : liftRound c e = some (c1, e1)) :
    inCoefRange c1 = true ∧ c1 ≠ 0 := by
  unfold liftRound at h
  cases hn : (MAXE - e).toNat with
  | zero => simp [hn, liftSteps] at h
  | succ n =>
    rw [hn, liftSteps] at h
    rcases hc with rfl | rfl
    · rw [if_pos (by decide)] at h
      simp only [Option.some.injEq, Prod.mk.injEq] at h
      obtain ⟨rfl, -⟩ := h
      decide
    · rw [if_pos (by decide)] at h
      simp only [Option.some.injEq, Prod.mk.injEq] at h
      obtain ⟨rfl, -⟩ := h
      decide

/-- What `pack` can do: the zero exit, or its exponent steps on a coefficient in range and not 0 (the given one, or
a lifted one with a larger exponent that is at most `MAXE`), or the overflow exit of step 3. -/
theorem pack_cases (c e : Int) :
    (c = 0 ∧ pack c e = ⟨ZERO, FlagSet.none⟩) ∨
    (c ≠ 0 ∧ inCoefRange c = true ∧ pack c e = packExponent c e) ∨
    (inCoefRange c = false ∧ ∃ c' e', inCoefRange c' = true ∧ c' ≠ 0 ∧ e < e' ∧ e' ≤ MAXE ∧
      pack c e = packExponent c' e') ∨
    (inCoefRange c = false ∧ pack c e = ⟨NAN, FlagSet.overflow⟩) := by
  by_cases h0 : c = 0
  · exact .inl ⟨h0, by simp [pack, h0]⟩
  cases hr : inCoefRange c with
  | true => exact .inr (.inl ⟨h0, rfl, by simp [pack, h0, hr]⟩)
  | false =>
    refine .inr (.inr ?_)
    cases hl : liftRound c e with
    | none => exact .inr ⟨rfl, by simp [pack, h0, hr, hl]⟩
    | some p =>
      obtain ⟨c1, e1⟩ := p
      have hb := liftRound_bounds hr hl
      obtain ⟨j, hj, he1, hmax, -⟩ := liftRound_some hl
      cases hr1 : inCoefRange c1 with
      | true => exact .inl ⟨rfl, c1, e1, hr1, hb.2.2, by omega, hmax, by simp [pack, h0, hr, hl, hr1]⟩
      | false =>
        cases hl1 : liftRound c1 e1 with
        | none => exact .inr ⟨rfl, by simp [pack, h0, hr, hl, hr1, hl1]⟩
        | some p =>
          obtain ⟨c2, e2⟩ := p
          have hone : c1 = MINC - 1 ∨ c1 = MAXC + 1 := by
            rw [not_inCoefRange_iff] at hr1; omega
          obtain ⟨h2, h20⟩ := liftRound_again hone hl1
          obtain ⟨j2, hj2, he2, hmax2, -⟩ := liftRound_some hl1
          exact .inl ⟨rfl, c2, e2, h2, h20, by omega, hmax2, by simp [pack, h0, hr, hl, hr1, hl1]⟩

/-- What the exponent steps of `pack` can do, for a coefficient in range and not 0: keep the pair, lower it, drop
digits, or take the overflow or the underflow exit. -/
theorem packExponent_cases {c : Int} (hr : inCoefRange c = true) (e : Int) :
    (MINE ≤ e ∧ e ≤ MAXE ∧ packExponent c e = ⟨word c e, FlagSet.none⟩) ∨
    (MAXE < e ∧ inCoefRange (10 ^ (e - MAXE).toNat * c) = true ∧
      packExponent c e = ⟨word (10 ^ (e - MAXE).toNat * c) MAXE, FlagSet.none⟩) ∨
    (MAXE < e ∧ packExponent c e = ⟨NAN, FlagSet.overflow⟩) ∨
    (e < MINE ∧ tdiv c (10 ^ (MINE - e).toNat) ≠ 0 ∧
      packExponent c e = ⟨word (tdiv c (10 ^ (MINE - e).toNat)) MINE, FlagSet.none⟩) ∨
    (e < MINE ∧ tdiv c (10 ^ (MINE - e).toNat) = 0 ∧ packExponent c e = ⟨ZERO, FlagSet.underflow⟩) := by
  by_cases h1 : MAXE < e
  · obtain ⟨j, hj, hs, hfit, -⟩ := scaleUp_spec inCoefRange (e - MAXE).toNat c
    rcases Nat.lt_or_ge j (e - MAXE).toNat with hlt | hge
    · obtain ⟨m, hm⟩ : ∃ m, (e - MAXE).toNat - j = m + 1 := ⟨(e - MAXE).toNat - j - 1, by omega⟩
      refine .inr (.inr (.inl ⟨h1, ?_⟩))
      simp only [packExponent, if_pos h1, hs, hm]
    · have hje : j = (e - MAXE).toNat := by omega
      subst hje
      refine .inr (.inl ⟨h1, ?_, ?_⟩)
      · rcases Nat.eq_zero_or_pos (e - MAXE).toNat with h0 | hpos
        · simpa [h0] using hr
        · exact hfit _ hpos le_rfl
      · simp only [packExponent, if_pos h1, hs, Nat.sub_self]
  · by_cases h2 : e < MINE
    · by_cases h3 : tdiv c (10 ^ (MINE - e).toNat) = 0
      · exact .inr (.inr (.inr (.inr ⟨h2, h3, by simp [packExponent, h1, h2, dropSteps_eq, h3]⟩)))
      · exact .inr (.inr (.inr (.inl ⟨h2, h3, by simp [packExponent, h1, h2, dropSteps_eq, h3]⟩)))
    · exact .inl ⟨by omega, by omega, by simp [packExponent, h1, h2]⟩

/-- `liftToRange` divides some `j` times and keeps the last digit; it stops where the coefficient is in range and
the exponent at least `MINE`, or at its bound. -/
theorem liftToRange_spec (n : Nat) (p e d : Int) :
    ∃ j, j ≤ n ∧
      liftToRange n p e d = (tdiv p (10 ^ j), e + j, if j = 0 then d else trem (tdiv p (10 ^ (j - 1))) 10) ∧
      (∀ i, i < j → ¬(inCoefRange (tdiv p (10 ^ i)) = true ∧ MINE ≤ e + i)) ∧
      (j < n → inCoefRange (tdiv p (10 ^ j)) = true ∧ MINE ≤ e + j) := by
  induction n generalizing p e d with
  | zero => exact ⟨0, le_rfl, by simp [liftToRange, tdiv], by omega, by omega⟩
  | succ n ih =>
    by_cases hc : inCoefRange p = true ∧ MINE ≤ e
    · refine ⟨0, by omega, ?_, by omega, fun _ => by simpa [tdiv] using hc⟩
      have : (inCoefRange p && decide (MINE ≤ e)) = true := by simpa using hc
      simp only [liftToRange, this]
      simp [tdiv]
    · obtain ⟨j, hj, he, hbefore, hstop⟩ := ih (tdiv p 10) (e + 1) (trem p 10)
      refine ⟨j + 1, by omega, ?_, ?_, ?_⟩
      · have : (inCoefRange p && decide (MINE ≤ e)) = false := by simpa using hc
        simp only [liftToRange, this, Bool.false_eq_true, if_false, he, tdiv_tdiv_ten_pow]
        refine Prod.ext rfl (Prod.ext (by push_cast; ring) ?_)
        cases j with
        | zero => simp [tdiv]
        | succ m => simp only [Nat.add_sub_cancel, Nat.succ_ne_zero, if_false]
      · intro i hi
        cases i with
        | zero => simpa [tdiv] using hc
        | succ m =>
          have := hbefore m (by omega)
          rw [tdiv_tdiv_ten_pow] at this
          push_cast; rwa [add_assoc, add_comm (1 : Int)] at this
      · intro h
        have := hstop (by omega)
        rw [tdiv_tdiv_ten_pow] at this
        push_cast; rwa [add_assoc, add_comm (1 : Int)] at this

/-- `divExtend` scales the dividend some `j` times, the quotient always the current one; it stops at remainder 0, at
a next quotient out of range, or at its bound. -/
theorem divExtend_spec (k : Nat) (n v e : Int) :
    ∃ j, j ≤ k ∧ divExtend k n v (tdiv n v) e = (tdiv (10 ^ j * n) v, e - j) ∧
      (j < k → 10 ^ j * n - tdiv (10 ^ j * n) v * v = 0 ∨ inCoefRange (tdiv (10 ^ (j + 1) * n) v) = false) ∧
      (∀ i, i < j → 10 ^ i * n - tdiv (10 ^ i * n) v * v ≠ 0 ∧ inCoefRange (tdiv (10 ^ (i + 1) * n) v) = true) := by
  induction k generalizing n e with
  | zero => exact ⟨0, le_rfl, by simp [divExtend], by omega, by omega⟩
  | succ k ih =>
    by_cases hr : n - tdiv n v * v = 0
    · exact ⟨0, by omega, by simp [divExtend, hr], fun _ => .inl (by simpa using hr), by omega⟩
    · cases hin : inCoefRange (tdiv (10 * n) v) with
      | false => exact ⟨0, by omega, by simp [divExtend, hr, hin], fun _ => .inr (by simpa using hin), by omega⟩
      | true =>
        have hmul : ∀ m : Nat, (10 : Int) ^ m * (10 * n) = 10 ^ (m + 1) * n := fun m => by rw [pow_succ]; ring
        obtain ⟨j, hj, he, hstop, hbefore⟩ := ih (10 * n) (e - 1)
        refine ⟨j + 1, by omega, ?_, ?_, ?_⟩
        · rw [divExtend, if_neg hr, if_pos hin, he, hmul]
          refine Prod.ext rfl (by push_cast; ring)
        · intro h; simpa only [hmul] using hstop (by omega)
        · intro i hi
          cases i with
          | zero => simpa using ⟨hr, hin⟩
          | succ m => simpa only [hmul] using hbefore m (by omega)

end Sys2Proof.Machine
end

