-- ==== Sys2Proof/Laws/PerInstr.lean ====
section
/-! SUPPORT. Statements about every operation as syntax, one lemma per constructor. -/

namespace Sys2Proof.Laws

/-- The request written for an operation is never one of an unassigned opcode (R55, R58). -/
def EncodesAssigned.Statement (i : Instr) : Prop := ∃ j, decode (encode i) = .ok j

namespace EncodesAssigned

theorem pack (c e : Int) : Statement (.pack c e) := ⟨_, rfl⟩
theorem raw (c : BitVec 56) (e : BitVec 8) : Statement (.raw c e) := ⟨_, rfl⟩
theorem coef (a : Word) : Statement (.coef a) := ⟨_, rfl⟩
theorem expo (a : Word) : Statement (.expo a) := ⟨_, rfl⟩
theorem isnan (a : Word) : Statement (.isnan a) := ⟨_, rfl⟩
theorem iszero (a : Word) : Statement (.iszero a) := ⟨_, rfl⟩
theorem eq (a b : Word) : Statement (.eq a b) := ⟨_, rfl⟩
theorem cmp (a b : Word) : Statement (.cmp a b) := ⟨_, rfl⟩
theorem add (a b : Word) : Statement (.add a b) := ⟨_, rfl⟩
theorem sub (a b : Word) : Statement (.sub a b) := ⟨_, rfl⟩
theorem neg (a : Word) : Statement (.neg a) := ⟨_, rfl⟩
theorem mul (a b : Word) : Statement (.mul a b) := ⟨_, rfl⟩
theorem div (a b : Word) : Statement (.div a b) := ⟨_, rfl⟩
theorem sign (a : Word) : Statement (.sign a) := ⟨_, rfl⟩
theorem abs (a : Word) : Statement (.abs a) := ⟨_, rfl⟩
theorem isint (a : Word) : Statement (.isint a) := ⟨_, rfl⟩
theorem floor (a : Word) : Statement (.floor a) := ⟨_, rfl⟩
theorem ceil (a : Word) : Statement (.ceil a) := ⟨_, rfl⟩
theorem round (a : Word) (t : Int) : Statement (.round a t) := ⟨_, rfl⟩
theorem tof32 (a : Word) : Statement (.tof32 a) := ⟨_, rfl⟩
theorem tof64 (a : Word) : Statement (.tof64 a) := ⟨_, rfl⟩
theorem fromf32 (x : BitVec 32) : Statement (.fromf32 x) := ⟨_, rfl⟩
theorem fromf64 (x : BitVec 64) : Statement (.fromf64 x) := ⟨_, rfl⟩
theorem fromi8 (v : Int) : Statement (.fromi8 v) := ⟨_, rfl⟩
theorem fromi16 (v : Int) : Statement (.fromi16 v) := ⟨_, rfl⟩
theorem fromi32 (v : Int) : Statement (.fromi32 v) := ⟨_, rfl⟩
theorem fromi64 (v : Int) : Statement (.fromi64 v) := ⟨_, rfl⟩
theorem fromi128 (v : Int) : Statement (.fromi128 v) := ⟨_, rfl⟩
theorem fromu8 (v : Int) : Statement (.fromu8 v) := ⟨_, rfl⟩
theorem fromu16 (v : Int) : Statement (.fromu16 v) := ⟨_, rfl⟩
theorem fromu32 (v : Int) : Statement (.fromu32 v) := ⟨_, rfl⟩
theorem fromu64 (v : Int) : Statement (.fromu64 v) := ⟨_, rfl⟩
theorem fromu128 (v : Int) : Statement (.fromu128 v) := ⟨_, rfl⟩
theorem toi8 (a : Word) : Statement (.toi8 a) := ⟨_, rfl⟩
theorem toi16 (a : Word) : Statement (.toi16 a) := ⟨_, rfl⟩
theorem toi32 (a : Word) : Statement (.toi32 a) := ⟨_, rfl⟩
theorem toi64 (a : Word) : Statement (.toi64 a) := ⟨_, rfl⟩
theorem toi128 (a : Word) : Statement (.toi128 a) := ⟨_, rfl⟩
theorem tou8 (a : Word) : Statement (.tou8 a) := ⟨_, rfl⟩
theorem tou16 (a : Word) : Statement (.tou16 a) := ⟨_, rfl⟩
theorem tou32 (a : Word) : Statement (.tou32 a) := ⟨_, rfl⟩
theorem tou64 (a : Word) : Statement (.tou64 a) := ⟨_, rfl⟩
theorem tou128 (a : Word) : Statement (.tou128 a) := ⟨_, rfl⟩

end EncodesAssigned

end Sys2Proof.Laws
end

