-- ==== Sys2Proof/Laws/State.lean ====
section
/-! SUPPORT. One lemma per field per update of the state, and what each shared operation over the state can do. -/

namespace Sys2Proof.Machine

variable (s : State) (r : Port) (f : FlagBits)

@[simp] theorem offer_pending : (s.offer r f).pending = s.pending := rfl
@[simp] theorem offer_rspValid : (s.offer r f).rspValid = true := rfl
@[simp] theorem offer_rspR : (s.offer r f).rspR = r := rfl
@[simp] theorem offer_rspFlags : (s.offer r f).rspFlags = f := rfl
@[simp] theorem offer_reqReady : (s.offer r f).reqReady = s.reqReady := rfl
@[simp] theorem offer_wait : (s.offer r f).wait = s.wait := rfl
@[simp] theorem offer_hold : (s.offer r f).hold = s.hold := rfl
@[simp] theorem offer_tick : (s.offer r f).tick = s.tick := rfl
@[simp] theorem offer_inputs : (s.offer r f).inputs = s.inputs := rfl
@[simp] theorem offer_accepted : (s.offer r f).accepted = s.accepted := rfl
@[simp] theorem offer_delivered : (s.offer r f).delivered = s.delivered := rfl

@[simp] theorem resetEdge_pending : s.resetEdge.pending = [] := rfl
@[simp] theorem resetEdge_rspValid : s.resetEdge.rspValid = false := rfl
@[simp] theorem resetEdge_reqReady : s.resetEdge.reqReady = false := rfl
@[simp] theorem resetEdge_wait : s.resetEdge.wait = 0 := rfl
@[simp] theorem resetEdge_inputs : s.resetEdge.inputs = s.inputs.tail := rfl
@[simp] theorem resetEdge_accepted : s.resetEdge.accepted = [] := rfl
@[simp] theorem resetEdge_delivered : s.resetEdge.delivered = [] := rfl

@[simp] theorem portEdge_pending : s.portEdge.pending = s.pendingNext := rfl
@[simp] theorem portEdge_rspValid : s.portEdge.rspValid = (s.rspValid && !s.delivers) := rfl
@[simp] theorem portEdge_rspR :
    s.portEdge.rspR = if s.rspValid && !s.delivers then s.rspR else Config.idleResult s.tick := rfl
@[simp] theorem portEdge_rspFlags :
    s.portEdge.rspFlags = if s.rspValid && !s.delivers then s.rspFlags else Config.idleFlags s.tick := rfl
@[simp] theorem portEdge_reqReady :
    s.portEdge.reqReady = decide (s.holdNext = 0 ∧ s.pendingNext.length < Config.capacity) := rfl
@[simp] theorem portEdge_wait : s.portEdge.wait = s.waitNext := rfl
@[simp] theorem portEdge_hold : s.portEdge.hold = s.holdNext := rfl
@[simp] theorem portEdge_inputs : s.portEdge.inputs = s.inputs.tail := rfl
@[simp] theorem portEdge_accepted :
    s.portEdge.accepted = s.accepted ++ (if s.accepts then [s.sampled.req] else []) := rfl
@[simp] theorem portEdge_delivered :
    s.portEdge.delivered = s.delivered ++ (if s.delivers then [⟨s.rspR, s.rspFlags⟩] else []) := rfl

theorem answerD_next {p : Answer} {t : State} (h : answerD p s = .next t) :
    t = s.offer (placeD p.w) (wordFlags p) := by
  simpa [answerD, eq_comm] using h

theorem answerPlain_next {t : State} (h : answerPlain r s = .next t) : t = s.offer r plainFlags := by
  simpa [answerPlain, eq_comm] using h

theorem answerUnassigned_next {t : State} (h : answerUnassigned s = .next t) :
    t = s.offer (placeD NAN) illFlags := by
  simpa [answerUnassigned, eq_comm] using h

/-- The request to run is the head of `pending`, with no response offered and its latency passed. -/
theorem toRun_eq_some {q : Request} :
    s.toRun = some q ↔ s.rspValid = false ∧ s.wait = 0 ∧ s.pending.head? = some q := by
  unfold State.toRun
  split <;> simp_all

/-- What a rising edge can do: it is a reset, or the ports are served. -/
theorem clockEdge_cases :
    (s.sampled.rst = true ∧ s.clockEdge = s.resetEdge) ∨ (s.sampled.rst = false ∧ s.clockEdge = s.portEdge) := by
  unfold State.clockEdge
  cases h : s.sampled.rst <;> simp

/-- What a step can do: run the request whose turn it is, answer an unassigned opcode, or pass a clock edge. -/
theorem step_cases {o : Host.Outcome State Fault Refusal} (h : step s = o) :
    (∃ q i, s.toRun = some q ∧ decode q = .ok i ∧ o = exec i s) ∨
    (∃ q e, s.toRun = some q ∧ decode q = .error e ∧ o = answerUnassigned s) ∨
    (s.toRun = none ∧ o = .next s.clockEdge) := by
  unfold step at h
  split at h
  · next q hq =>
    split at h
    · next i hi => exact .inl ⟨q, i, hq, hi, h.symm⟩
    · next e he => exact .inr (.inl ⟨q, e, hq, he, h.symm⟩)
  · next hn => exact .inr (.inr ⟨hn, h.symm⟩)

end Sys2Proof.Machine
end

