-- ==== Sys2Proof/Tests/Slice0.lean ====
section
/-! SUPPORT. The author's own tests: ill-formed terms that `wellFormed` refuses, words written out from 30_encoding.md
R50, R54 and R55 with every ignored bit set to something, single steps whose expected responses are the spec's own
vectors (95_test_vectors.md, 97_test_vectors_arithmetic.md, 98_test_vectors_conversions.md), and, for each statement
with hypotheses, a state and operands that meet them (`witness_<statement>`). -/

namespace Sys2Proof.Tests

open Sys2Proof Sys2Proof.Machine

-- One theorem after another: the many small evaluations otherwise take a thread each.
set_option Elab.async false

/-! ### Ill-formed terms -/

theorem test_illFormed_pack_coefficient : (Instr.pack (2 ^ 127) 0).wellFormed = false := by decide +kernel
theorem test_illFormed_pack_exponent : (Instr.pack 0 (-2 ^ 63 - 1)).wellFormed = false := by decide +kernel
theorem test_illFormed_round : (Instr.round 0#64 (2 ^ 63)).wellFormed = false := by decide +kernel
theorem test_illFormed_fromi8 : (Instr.fromi8 128).wellFormed = false := by decide +kernel
theorem test_illFormed_fromi16 : (Instr.fromi16 (-32769)).wellFormed = false := by decide +kernel
theorem test_illFormed_fromi32 : (Instr.fromi32 (2 ^ 31)).wellFormed = false := by decide +kernel
theorem test_illFormed_fromi64 : (Instr.fromi64 (2 ^ 63)).wellFormed = false := by decide +kernel
theorem test_illFormed_fromi128 : (Instr.fromi128 (-2 ^ 127 - 1)).wellFormed = false := by decide +kernel
theorem test_illFormed_fromu8 : (Instr.fromu8 256).wellFormed = false := by decide +kernel
theorem test_illFormed_fromu16 : (Instr.fromu16 (-1)).wellFormed = false := by decide +kernel
theorem test_illFormed_fromu32 : (Instr.fromu32 (2 ^ 32)).wellFormed = false := by decide +kernel
theorem test_illFormed_fromu64 : (Instr.fromu64 (-1)).wellFormed = false := by decide +kernel
theorem test_illFormed_fromu128 : (Instr.fromu128 (2 ^ 128)).wellFormed = false := by decide +kernel

/-! ### Words written out: opcode, `req_b`, `req_a`, ignored bits not 0 -/

theorem test_decode_pack : decodeTableWord 200 0x10FFFFFFFFFFFFFFF980000000000000000000000000000019 =
    some (.pack (-170141183460469231731687303715884105703) (-7)) := by decide +kernel

theorem test_decode_raw : decodeTableWord 200 0x11FEEDFACECAFEBE80C3A5F00D123456787780000000000019 =
    some (.raw 0x80000000000019#56 0x80#8) := by decide +kernel

theorem test_decode_coef : decodeTableWord 200 0x12FEEDFACECAFEBEEFC3A5F00D12345678FFFFFFFFFFFFE7FF =
    some (.coef 0xFFFFFFFFFFFFE7FF#64) := by decide +kernel

theorem test_decode_expo : decodeTableWord 200 0x13FEEDFACECAFEBEEFC3A5F00D12345678FFFFFFFFFFFFE7FF =
    some (.expo 0xFFFFFFFFFFFFE7FF#64) := by decide +kernel

theorem test_decode_isnan : decodeTableWord 200 0x14FEEDFACECAFEBEEFC3A5F00D12345678FFFFFFFFFFFFE7FF =
    some (.isnan 0xFFFFFFFFFFFFE7FF#64) := by decide +kernel

theorem test_decode_iszero : decodeTableWord 200 0x15FEEDFACECAFEBEEFC3A5F00D12345678FFFFFFFFFFFFE7FF =
    some (.iszero 0xFFFFFFFFFFFFE7FF#64) := by decide +kernel

theorem test_decode_eq : decodeTableWord 200 0x208000000000000281C3A5F00D12345678FFFFFFFFFFFFE7FF =
    some (.eq 0xFFFFFFFFFFFFE7FF#64 0x8000000000000281#64) := by decide +kernel

theorem test_decode_cmp : decodeTableWord 200 0x218000000000000281C3A5F00D12345678FFFFFFFFFFFFE7FF =
    some (.cmp 0xFFFFFFFFFFFFE7FF#64 0x8000000000000281#64) := by decide +kernel

theorem test_decode_add : decodeTableWord 200 0x308000000000000281C3A5F00D12345678FFFFFFFFFFFFE7FF =
    some (.add 0xFFFFFFFFFFFFE7FF#64 0x8000000000000281#64) := by decide +kernel

theorem test_decode_sub : decodeTableWord 200 0x318000000000000281C3A5F00D12345678FFFFFFFFFFFFE7FF =
    some (.sub 0xFFFFFFFFFFFFE7FF#64 0x8000000000000281#64) := by decide +kernel

theorem test_decode_neg : decodeTableWord 200 0x32FEEDFACECAFEBEEFC3A5F00D12345678FFFFFFFFFFFFE7FF =
    some (.neg 0xFFFFFFFFFFFFE7FF#64) := by decide +kernel

theorem test_decode_mul : decodeTableWord 200 0x338000000000000281C3A5F00D12345678FFFFFFFFFFFFE7FF =
    some (.mul 0xFFFFFFFFFFFFE7FF#64 0x8000000000000281#64) := by decide +kernel

theorem test_decode_div : decodeTableWord 200 0x348000000000000281C3A5F00D12345678FFFFFFFFFFFFE7FF =
    some (.div 0xFFFFFFFFFFFFE7FF#64 0x8000000000000281#64) := by decide +kernel

theorem test_decode_sign : decodeTableWord 200 0x40FEEDFACECAFEBEEFC3A5F00D12345678FFFFFFFFFFFFE7FF =
    some (.sign 0xFFFFFFFFFFFFE7FF#64) := by decide +kernel

theorem test_decode_abs : decodeTableWord 200 0x41FEEDFACECAFEBEEFC3A5F00D12345678FFFFFFFFFFFFE7FF =
    some (.abs 0xFFFFFFFFFFFFE7FF#64) := by decide +kernel

theorem test_decode_isint : decodeTableWord 200 0x42FEEDFACECAFEBEEFC3A5F00D12345678FFFFFFFFFFFFE7FF =
    some (.isint 0xFFFFFFFFFFFFE7FF#64) := by decide +kernel

theorem test_decode_floor : decodeTableWord 200 0x43FEEDFACECAFEBEEFC3A5F00D12345678FFFFFFFFFFFFE7FF =
    some (.floor 0xFFFFFFFFFFFFE7FF#64) := by decide +kernel

theorem test_decode_ceil : decodeTableWord 200 0x44FEEDFACECAFEBEEFC3A5F00D12345678FFFFFFFFFFFFE7FF =
    some (.ceil 0xFFFFFFFFFFFFE7FF#64) := by decide +kernel

theorem test_decode_round : decodeTableWord 200 0x45FFFFFFFFFFFFFFF9C3A5F00D12345678FFFFFFFFFFFFE7FF =
    some (.round 0xFFFFFFFFFFFFE7FF#64 (-7)) := by decide +kernel

theorem test_decode_tof32 : decodeTableWord 200 0x50FEEDFACECAFEBEEFC3A5F00D12345678FFFFFFFFFFFFE7FF =
    some (.tof32 0xFFFFFFFFFFFFE7FF#64) := by decide +kernel

theorem test_decode_tof64 : decodeTableWord 200 0x51FEEDFACECAFEBEEFC3A5F00D12345678FFFFFFFFFFFFE7FF =
    some (.tof64 0xFFFFFFFFFFFFE7FF#64) := by decide +kernel

theorem test_decode_fromf32 : decodeTableWord 200 0x52FEEDFACECAFEBEEFC3A5F00D12345678DEADBEEF3F800001 =
    some (.fromf32 0x3F800001#32) := by decide +kernel

theorem test_decode_fromf64 : decodeTableWord 200 0x53FEEDFACECAFEBEEFC3A5F00D123456783FB999999999999A =
    some (.fromf64 0x3FB999999999999A#64) := by decide +kernel

theorem test_decode_fromi8 : decodeTableWord 200 0x60FEEDFACECAFEBEEFC3A5F00D12345678C3A5F00D12345685 =
    some (.fromi8 (-123)) := by decide +kernel

theorem test_decode_fromi16 : decodeTableWord 200 0x61FEEDFACECAFEBEEFC3A5F00D12345678C3A5F00D12348005 =
    some (.fromi16 (-32763)) := by decide +kernel

theorem test_decode_fromi32 : decodeTableWord 200 0x62FEEDFACECAFEBEEFC3A5F00D12345678C3A5F00D80000005 =
    some (.fromi32 (-2147483643)) := by decide +kernel

theorem test_decode_fromi64 : decodeTableWord 200 0x63FEEDFACECAFEBEEFC3A5F00D123456788000000000000005 =
    some (.fromi64 (-9223372036854775803)) := by decide +kernel

theorem test_decode_fromi128 : decodeTableWord 200 0x64FEEDFACECAFEBEEF80000000000000000000000000000005 =
    some (.fromi128 (-170141183460469231731687303715884105723)) := by decide +kernel

theorem test_decode_fromu8 : decodeTableWord 200 0x68FEEDFACECAFEBEEFC3A5F00D12345678C3A5F00D12345685 =
    some (.fromu8 (133)) := by decide +kernel

theorem test_decode_fromu16 : decodeTableWord 200 0x69FEEDFACECAFEBEEFC3A5F00D12345678C3A5F00D12348005 =
    some (.fromu16 (32773)) := by decide +kernel

theorem test_decode_fromu32 : decodeTableWord 200 0x6AFEEDFACECAFEBEEFC3A5F00D12345678C3A5F00D80000005 =
    some (.fromu32 (2147483653)) := by decide +kernel

theorem test_decode_fromu64 : decodeTableWord 200 0x6BFEEDFACECAFEBEEFC3A5F00D123456788000000000000005 =
    some (.fromu64 (9223372036854775813)) := by decide +kernel

theorem test_decode_fromu128 : decodeTableWord 200 0x6CFEEDFACECAFEBEEF80000000000000000000000000000005 =
    some (.fromu128 (170141183460469231731687303715884105733)) := by decide +kernel

theorem test_decode_toi8 : decodeTableWord 200 0x70FEEDFACECAFEBEEFC3A5F00D12345678FFFFFFFFFFFFE7FF =
    some (.toi8 0xFFFFFFFFFFFFE7FF#64) := by decide +kernel

theorem test_decode_toi16 : decodeTableWord 200 0x71FEEDFACECAFEBEEFC3A5F00D12345678FFFFFFFFFFFFE7FF =
    some (.toi16 0xFFFFFFFFFFFFE7FF#64) := by decide +kernel

theorem test_decode_toi32 : decodeTableWord 200 0x72FEEDFACECAFEBEEFC3A5F00D12345678FFFFFFFFFFFFE7FF =
    some (.toi32 0xFFFFFFFFFFFFE7FF#64) := by decide +kernel

theorem test_decode_toi64 : decodeTableWord 200 0x73FEEDFACECAFEBEEFC3A5F00D12345678FFFFFFFFFFFFE7FF =
    some (.toi64 0xFFFFFFFFFFFFE7FF#64) := by decide +kernel

theorem test_decode_toi128 : decodeTableWord 200 0x74FEEDFACECAFEBEEFC3A5F00D12345678FFFFFFFFFFFFE7FF =
    some (.toi128 0xFFFFFFFFFFFFE7FF#64) := by decide +kernel

theorem test_decode_tou8 : decodeTableWord 200 0x78FEEDFACECAFEBEEFC3A5F00D12345678FFFFFFFFFFFFE7FF =
    some (.tou8 0xFFFFFFFFFFFFE7FF#64) := by decide +kernel

theorem test_decode_tou16 : decodeTableWord 200 0x79FEEDFACECAFEBEEFC3A5F00D12345678FFFFFFFFFFFFE7FF =
    some (.tou16 0xFFFFFFFFFFFFE7FF#64) := by decide +kernel

theorem test_decode_tou32 : decodeTableWord 200 0x7AFEEDFACECAFEBEEFC3A5F00D12345678FFFFFFFFFFFFE7FF =
    some (.tou32 0xFFFFFFFFFFFFE7FF#64) := by decide +kernel

theorem test_decode_tou64 : decodeTableWord 200 0x7BFEEDFACECAFEBEEFC3A5F00D12345678FFFFFFFFFFFFE7FF =
    some (.tou64 0xFFFFFFFFFFFFE7FF#64) := by decide +kernel

theorem test_decode_tou128 : decodeTableWord 200 0x7CFEEDFACECAFEBEEFC3A5F00D12345678FFFFFFFFFFFFE7FF =
    some (.tou128 0xFFFFFFFFFFFFE7FF#64) := by decide +kernel

/-- R58: `0x35` lies between DIV and SIGN and names nothing. -/
theorem test_decode_unassigned : decodeTableWord 200 (0x35 * 2 ^ 192) = none := by decide +kernel

/-! ### One step on the spec's vectors -/

/-- The response that one step offers to the bundle `w`, as numbers. -/
def runWord (w : Nat) : Option (Nat × Nat) :=
  match step (State.reset.withFetchWord 200 w) with
  | .next t => if t.rspValid then some (t.rspR.toNat, t.rspFlags.toNat) else none
  | _ => none

theorem test_pack_rounding_carries : runWord 0x100000000000000000000000000000000004FFFFFFFFFFFFFB =
    some (0xCCCCCCCCCCCCD02, 0) := by decide +kernel

theorem test_pack_drops_digits_unrounded : runWord 0x10FFFFFFFFFFFFFF800000000000000000000000000000000F =
    some (0x181, 0) := by decide +kernel

theorem test_raw_ignores_high_bits : runWord 0x11000000000000017F00000000000000000100000000000007 =
    some (0x77F, 0) := by decide +kernel

theorem test_raw_builds_denormal_nan : runWord 0x11000000000000008000000000000000000000000000000005 =
    some (0x580, 1) := by decide +kernel

theorem test_coef_of_minc : runWord 0x1200000000000000000000000000000000800000000000007F =
    some (0xFFFFFFFFFFFFFFFFFF80000000000000, 0) := by decide +kernel

theorem test_coef_of_nan : runWord 0x12000000000000000000000000000000000000000000000780 =
    some (0x7, 0) := by decide +kernel

theorem test_expo_negative : runWord 0x13000000000000000000000000000000000000000000000181 =
    some (0xFFFFFFFFFFFFFFFFFFFFFFFFFFFFFF81, 0) := by decide +kernel

theorem test_expo_of_nan : runWord 0x13000000000000000000000000000000000000000000000080 =
    some (0xFFFFFFFFFFFFFFFFFFFFFFFFFFFFFF80, 0) := by decide +kernel

theorem test_isnan_denormal : runWord 0x14000000000000000000000000000000000000000000000780 =
    some (0x1, 0) := by decide +kernel

theorem test_isnan_least_exponent : runWord 0x14000000000000000000000000000000000000000000000081 =
    some (0x0, 0) := by decide +kernel

theorem test_iszero_denormal : runWord 0x15000000000000000000000000000000000000000000000063 =
    some (0x1, 0) := by decide +kernel

theorem test_iszero_of_nan : runWord 0x15000000000000000000000000000000000000000000000080 =
    some (0x0, 0) := by decide +kernel

theorem test_eq_minc_second : runWord 0x2080000000000000000000000000000000F333333333333301 =
    some (0x1, 0) := by decide +kernel

theorem test_eq_minc_first : runWord 0x20F33333333333330100000000000000008000000000000000 =
    some (0x0, 0) := by decide +kernel

theorem test_cmp_overflow_is_less : runWord 0x21800000000000017F00000000000000007FFFFFFFFFFFFF7F =
    some (0x2, 0) := by decide +kernel

theorem test_cmp_denormal_nan_unordered : runWord 0x21000000000000058000000000000000000000000000000080 =
    some (0x3, 0) := by decide +kernel

theorem test_add_loses_small_operand : runWord 0x30000000000000010000000000000000000000000000000114 =
    some (0x2386F26FC1000004, 0) := by decide +kernel

theorem test_add_keeps_denormal_zero : runWord 0x30FFFFFFFFFFFFFBFE000000000000000000000000000005FE =
    some (0xFE, 0) := by decide +kernel

theorem test_sub_minc_from_itself : runWord 0x31800000000000000000000000000000008000000000000000 =
    some (0x200, 0) := by decide +kernel

theorem test_sub_keeps_overflow_of_negation : runWord 0x31800000000000007F00000000000000000000000000000100 =
    some (0x80, 3) := by decide +kernel

theorem test_neg_minc_rounds : runWord 0x3200000000000000000000000000000000800000000000007E =
    some (0xCCCCCCCCCCCCD7F, 0) := by decide +kernel

theorem test_neg_zero_is_canonical : runWord 0x32000000000000000000000000000000000000000000000009 =
    some (0x0, 0) := by decide +kernel

theorem test_mul_rounds_on_stale_digit : runWord 0x33000000080000001B00000000000000000000001000000064 =
    some (0x7FFFFFFFFFFFF97F, 0) := by decide +kernel

theorem test_mul_underflow_rounds_up : runWord 0x3300000000000001E40000000000000000000000000000059C =
    some (0x181, 0) := by decide +kernel

theorem test_div_one_by_three : runWord 0x34000000000000030000000000000000000000000000000100 =
    some (0x766C7D74835555EF, 0) := by decide +kernel

theorem test_div_minc_overflows_in_pack : runWord 0x34FFFFFFFFFFFFFF000000000000000000800000000000007F =
    some (0x80, 3) := by decide +kernel

theorem test_sign_of_canonical_nan : runWord 0x40000000000000000000000000000000000000000000000080 =
    some (0x1, 0) := by decide +kernel

theorem test_sign_of_negative_nan : runWord 0x4000000000000000000000000000000000FFFFFFFFFFFFFB80 =
    some (0xFFFFFFFFFFFFFFFFFFFFFFFFFFFFFFFF, 0) := by decide +kernel

theorem test_abs_minc_rounds : runWord 0x41000000000000000000000000000000008000000000000000 =
    some (0xCCCCCCCCCCCCD01, 0) := by decide +kernel

theorem test_abs_minc_overflows : runWord 0x4100000000000000000000000000000000800000000000007F =
    some (0x80, 3) := by decide +kernel

theorem test_isint_ends_in_zero : runWord 0x42000000000000000000000000000000002386F26FC10000F0 =
    some (0x1, 0) := by decide +kernel

theorem test_isint_seventeen_places : runWord 0x420000000000000000000000000000000000000000000001EF =
    some (0x0, 0) := by decide +kernel

theorem test_floor_negative : runWord 0x430000000000000000000000000000000080000000000000F0 =
    some (0xF1CA056CE60000F1, 0) := by decide +kernel

theorem test_floor_scale_overflows : runWord 0x4300000000000000000000000000000000FFFFFFFFFFFFFFED =
    some (0xFFFFFFFFFFFFFF00, 0) := by decide +kernel

theorem test_ceil_negative : runWord 0x4400000000000000000000000000000000FFFFFFFFFFFFE7FF =
    some (0xFFFFFFFFFFFFECFF, 0) := by decide +kernel

theorem test_ceil_scale_overflows : runWord 0x440000000000000000000000000000000000000000000001ED =
    some (0x100, 0) := by decide +kernel

theorem test_round_half_away : runWord 0x4500000000000000000000000000000000FFFFFFFFFFFFE7FF =
    some (0xFFFFFFFFFFFFFD00, 0) := by decide +kernel

theorem test_round_to_128_overflows : runWord 0x45000000000000008000000000000000007FFFFFFFFFFFFF7F =
    some (0x80, 3) := by decide +kernel

theorem test_tof32_carries_into_exponent : runWord 0x50000000000000000000000000000000007FFFFFFFFFFFFF00 =
    some (0x5B000000, 0) := by decide +kernel

theorem test_tof64_ties_to_even : runWord 0x51000000000000000000000000000000002000000000000100 =
    some (0x4340000000000000, 0) := by decide +kernel

theorem test_fromf32_least_normal : runWord 0x52000000000000000000000000000000000000000000800000 =
    some (0xB35DC0D3, 0) := by decide +kernel

theorem test_fromf32_ignores_high_bits : runWord 0x5200000000000000000000000000000000DEADBEEF3F800000 =
    some (0x100, 0) := by decide +kernel

theorem test_fromf64_seventeen_digits : runWord 0x5300000000000000000000000000000000437B69B4BA630F35 =
    some (0x2BDC545D6B4B8801, 0) := by decide +kernel

theorem test_fromf64_underflows : runWord 0x5300000000000000000000000000000000259076753B3B7A05 =
    some (0x0, 4) := by decide +kernel

theorem test_fromi8_ignores_high_bits : runWord 0x600000000000000000000000000000000000000000001234FF =
    some (0xFFFFFFFFFFFFFF00, 0) := by decide +kernel

theorem test_fromi8_least : runWord 0x60000000000000000000000000000000000000000000000080 =
    some (0xFFFFFFFFFFFF8000, 0) := by decide +kernel

theorem test_fromi16_least : runWord 0x61000000000000000000000000000000000000000000008000 =
    some (0xFFFFFFFFFF800000, 0) := by decide +kernel

theorem test_fromi16_greatest : runWord 0x61000000000000000000000000000000000000000000007FFF =
    some (0x7FFF00, 0) := by decide +kernel

theorem test_fromi32_least : runWord 0x62000000000000000000000000000000000000000080000000 =
    some (0xFFFFFF8000000000, 0) := by decide +kernel

theorem test_fromi32_minus_one : runWord 0x620000000000000000000000000000000000000000FFFFFFFF =
    some (0xFFFFFFFFFFFFFF00, 0) := by decide +kernel

theorem test_fromi64_rounding_carries : runWord 0x630000000000000000000000000000000004FFFFFFFFFFFFFB =
    some (0xCCCCCCCCCCCCD02, 0) := by decide +kernel

theorem test_fromi64_least : runWord 0x63000000000000000000000000000000008000000000000000 =
    some (0xDF3B645A1CAC0803, 0) := by decide +kernel

theorem test_fromi128_least : runWord 0x64000000000000000080000000000000000000000000000000 =
    some (0xC38DBFDFD1423516, 0) := by decide +kernel

theorem test_fromi128_greatest : runWord 0x6400000000000000007FFFFFFFFFFFFFFFFFFFFFFFFFFFFFFF =
    some (0x3C7240202EBDCB16, 0) := by decide +kernel

theorem test_fromu8_top_bit : runWord 0x68000000000000000000000000000000000000000000000080 =
    some (0x8000, 0) := by decide +kernel

theorem test_fromu16_greatest : runWord 0x6900000000000000000000000000000000000000000000FFFF =
    some (0xFFFF00, 0) := by decide +kernel

theorem test_fromu32_greatest : runWord 0x6A0000000000000000000000000000000000000000FFFFFFFF =
    some (0xFFFFFFFF00, 0) := by decide +kernel

theorem test_fromu64_top_bit : runWord 0x6B000000000000000000000000000000008000000000000000 =
    some (0x20C49BA5E353F803, 0) := by decide +kernel

theorem test_fromu128_greatest : runWord 0x6C0000000000000000FFFFFFFFFFFFFFFFFFFFFFFFFFFFFFFF =
    some (0x78E480405D7B9616, 0) := by decide +kernel

theorem test_toi8_wraps : runWord 0x70000000000000000000000000000000000000000000000D01 =
    some (0xFFFFFFFFFFFFFFFFFFFFFFFFFFFFFF82, 0) := by decide +kernel

theorem test_toi8_bare_coefficient : runWord 0x700000000000000000000000000000000000000000000019FF =
    some (0x19, 0) := by decide +kernel

theorem test_toi16_wraps : runWord 0x71000000000000000000000000000000000000000000000404 =
    some (0xFFFFFFFFFFFFFFFFFFFFFFFFFFFF9C40, 0) := by decide +kernel

theorem test_toi32_wraps : runWord 0x72000000000000000000000000000000000000000000000309 =
    some (0xFFFFFFFFFFFFFFFFFFFFFFFFB2D05E00, 0) := by decide +kernel

theorem test_toi64_wraps : runWord 0x73000000000000000000000000000000000000000000000113 =
    some (0xFFFFFFFFFFFFFFFF8AC7230489E80000, 0) := by decide +kernel

theorem test_toi64_minc : runWord 0x73000000000000000000000000000000008000000000000000 =
    some (0xFFFFFFFFFFFFFFFFFF80000000000000, 0) := by decide +kernel

theorem test_toi128_wraps : runWord 0x74000000000000000000000000000000000000000000000127 =
    some (0xF050FE938943ACC45F65568000000000, 0) := by decide +kernel

theorem test_toi128_minc : runWord 0x74000000000000000000000000000000008000000000000005 =
    some (0xFFFFFFFFFFFFFF3CB000000000000000, 0) := by decide +kernel

theorem test_tou8_wraps : runWord 0x78000000000000000000000000000000000000000000000302 =
    some (0x2C, 0) := by decide +kernel

theorem test_tou8_negative : runWord 0x7800000000000000000000000000000000FFFFFFFFFFFFFF00 =
    some (0xFF, 0) := by decide +kernel

theorem test_tou16_wraps : runWord 0x79000000000000000000000000000000000000000000000704 =
    some (0x1170, 0) := by decide +kernel

theorem test_tou32_wraps : runWord 0x7A000000000000000000000000000000000000000000000509 =
    some (0x2A05F200, 0) := by decide +kernel

theorem test_tou64_wraps : runWord 0x7B000000000000000000000000000000000000000000000213 =
    some (0x158E460913D00000, 0) := by decide +kernel

theorem test_tou128_wraps : runWord 0x7C000000000000000000000000000000000000000000002325 =
    some (0x74F8C4D3CD7AFAB216377E000000000, 0) := by decide +kernel

theorem test_tou128_of_nan : runWord 0x7C000000000000000000000000000000000000000000000580 =
    some (0x5, 0) := by decide +kernel

theorem test_unassigned_35 : runWord 0x35000000000000020000000000000000000000000000000100 =
    some (0x80, 8) := by decide +kernel

theorem test_unassigned_ff : runWord 0xFF000000000000000700000000000000000000000000000005 =
    some (0x80, 8) := by decide +kernel

theorem test_tof32_three_tenths :
    toFloat binary32 binary32.recommendedPow10 0x00000000000003FF#64 = 0x3E99999A := by decide +kernel

theorem test_tof64_three_tenths :
    toFloat binary64 binary64.recommendedPow10 0x00000000000003FF#64 = 0x3FD3333333333334 := by decide +kernel

/-! ### The ports and the edge -/

/-- A state in which both ports move: `(1, -1) + (2, -1)` is answered and taken, `NEG (1, 0)` comes in. -/
def busy : State :=
  { State.reset with
    pending  := [⟨0x30#8, 0x1FF#128, 0x2FF#64⟩]
    rspValid := true
    rspR     := 0x3FF#128
    reqReady := true
    inputs   := [⟨false, true, ⟨0x32#8, 0x100#128, 0#64⟩, true⟩]
    accepted := [⟨0x30#8, 0x1FF#128, 0x2FF#64⟩] }

/-- The same request accepted and not yet answered, the host idle. -/
def waiting (w : Nat) : State :=
  { State.reset with
    pending  := [⟨0x30#8, 0x1FF#128, 0x2FF#64⟩]
    wait     := w
    inputs   := [⟨false, false, ⟨0#8, 0#128, 0#64⟩, false⟩]
    accepted := [⟨0x30#8, 0x1FF#128, 0x2FF#64⟩] }

/-- R33, R61: at one edge the response leaves, the head of `pending` with it, and the new request is appended. -/
theorem test_edge_moves_both :
    busy.clockEdge.pending = [⟨0x32#8, 0x100#128, 0#64⟩] ∧ busy.clockEdge.delivered = [⟨0x3FF#128, 0#4⟩] ∧
    busy.clockEdge.rspValid = false := by decide

/-- R190: with `rst` at the same edge, neither moves. -/
theorem test_edge_reset_wins :
    { busy with inputs := [⟨true, true, ⟨0x32#8, 0x100#128, 0#64⟩, true⟩] }.clockEdge.pending = [] ∧
    { busy with inputs := [⟨true, true, ⟨0x32#8, 0x100#128, 0#64⟩, true⟩] }.clockEdge.delivered = [] := by decide

/-- R61: a request is not accepted while `req_ready` is 0. -/
theorem test_edge_not_ready : { busy with reqReady := false }.clockEdge.pending = [] := by decide

/-! ### Witnesses: hypotheses that can be met -/

theorem witness_DecodeInvertsEncode :
    (Instr.pack (-2 ^ 127) (2 ^ 63 - 1)).wellFormed = true ∧ (Instr.fromu128 (2 ^ 128 - 1)).wellFormed = true := by
  decide +kernel

theorem witness_DecodedOperationIsWellFormed :
    decode ⟨0x60#8, 0x1234FF#128, 5#64⟩ = .ok (.fromi8 (-1)) := rfl

theorem witness_OnlyAssignedOpcodesDecode : 0x35#8 ∉ assignedOpcodes ∧ 0x7C#8 ∈ assignedOpcodes := by decide

/-- One assigned opcode per operand shape; the two operands differ in every ignored bit. -/
theorem witness_IgnoredOperandBitsHaveNoEffect :
    (0x30#8 ∈ assignedOpcodes ∧ (2 ^ 128 - 1) % 2 ^ usedBitsA 0x30#8 = (2 ^ 64 - 1) % 2 ^ usedBitsA 0x30#8) ∧
    (0x11#8 ∈ assignedOpcodes ∧ (2 ^ 128 - 1) % 2 ^ usedBitsA 0x11#8 = (2 ^ 56 - 1) % 2 ^ usedBitsA 0x11#8 ∧
      (2 ^ 64 - 1) % 2 ^ usedBitsB 0x11#8 = (2 ^ 8 - 1) % 2 ^ usedBitsB 0x11#8) ∧
    (0x60#8 ∈ assignedOpcodes ∧ (2 ^ 128 - 1) % 2 ^ usedBitsA 0x60#8 = (2 ^ 8 - 1) % 2 ^ usedBitsA 0x60#8 ∧
      (2 ^ 64 - 1) % 2 ^ usedBitsB 0x60#8 = 0 % 2 ^ usedBitsB 0x60#8) := by decide +kernel

theorem witness_StepRunsHeadOfPending :
    (waiting 0).rspValid = false ∧ (waiting 0).wait = 0 ∧
    (waiting 0).pending = ⟨0x30#8, 0x1FF#128, 0x2FF#64⟩ :: [] ∧
    decode ⟨0x30#8, 0x1FF#128, 0x2FF#64⟩ = .ok (.add 0x1FF#64 0x2FF#64) := ⟨rfl, rfl, rfl, rfl⟩

theorem witness_UnassignedOpcodeIsAnswered :
    (State.reset.withFetchWord 200 (0x35 * 2 ^ 192)).rspValid = false ∧
    (State.reset.withFetchWord 200 (0x35 * 2 ^ 192)).wait = 0 ∧
    (State.reset.withFetchWord 200 (0x35 * 2 ^ 192)).pending = ⟨0x35#8, 0#128, 0#64⟩ :: [] ∧
    0x35#8 ∉ assignedOpcodes := by decide +kernel

theorem witness_ExecOffersExecOfItsRequest : (Instr.round 0#64 (-2 ^ 63)).wellFormed = true := by decide +kernel

theorem witness_ExecChangesOnlyTheResponsePorts :
    exec (.add 0x1FF#64 0x2FF#64) (waiting 0) = .next ((waiting 0).offer 0x3FF#128 0#4) :=
  congrArg Host.Outcome.next (by decide +kernel :
    (waiting 0).offer (placeD (add 0x1FF#64 0x2FF#64).w) (wordFlags (add 0x1FF#64 0x2FF#64)) = _)

/-- A sound state with a request to run, and the step it takes. -/
theorem witness_EveryStepKeepsSound :
    (waiting 0).Sound ∧ step (waiting 0) = .next ((waiting 0).offer 0x3FF#128 0#4) := by
  refine ⟨⟨?_, rfl, rfl, ?_, ?_, ?_⟩, ?_⟩
  · decide
  · intro h; cases h
  · show 1 ≤ Config.extraCapacity + 1; omega
  · intro h; cases h
  · exact witness_ExecChangesOnlyTheResponsePorts

theorem witness_EdgeMovesRequestsAndResponses :
    busy.toRun = none ∧ busy.sampled.rst = false ∧ (busy.rspValid = true ∧ busy.sampled.rspReady = true) ∧
    (busy.sampled.reqValid = true ∧ busy.reqReady = true) := by decide

theorem witness_OfferedResponseIsHeld :
    { busy with inputs := [] }.rspValid = true ∧ { busy with inputs := [] }.sampled.rst = false ∧
    { busy with inputs := [] }.sampled.rspReady = false := by decide

theorem witness_ResetEdgeDropsEverything :
    { busy with inputs := [⟨true, true, ⟨0x32#8, 0x100#128, 0#64⟩, true⟩] }.toRun = none ∧
    { busy with inputs := [⟨true, true, ⟨0x32#8, 0x100#128, 0#64⟩, true⟩] }.sampled.rst = true := by decide

theorem witness_ReadyRisesWithinHold :
    { State.reset with hold := 3 }.pending = [] ∧ { State.reset with hold := 3 }.rspValid = false ∧
    { State.reset with hold := 3 }.noReset := by
  refine ⟨rfl, rfl, ?_⟩
  intro x hx; cases hx

theorem witness_PendingRequestIsAnswered :
    (waiting 2).pending = ⟨0x30#8, 0x1FF#128, 0x2FF#64⟩ :: [] ∧ (waiting 2).rspValid = false ∧
    (waiting 2).noReset := by
  refine ⟨rfl, rfl, ?_⟩
  intro x hx
  simp [waiting] at hx
  simp [hx]

/-- A request for each flag bundle: MUL overflows, MUL underflows, an unassigned opcode. -/
theorem witness_FlagBundlesThatOccur :
    (EXEC ⟨0x33#8, 0x17F#128, 0x17F#64⟩).flags = 3#4 ∧ (EXEC ⟨0x33#8, 0x181#128, 0x181#64⟩).flags = 4#4 ∧
    (EXEC ⟨0x35#8, 0#128, 0#64⟩).flags = 8#4 ∧ 0x35#8 ∉ assignedOpcodes := by decide +kernel

theorem witness_NanfReportsTheResultWord :
    decode ⟨0x11#8, 5#128, 0x80#64⟩ = .ok (.raw 5#56 0x80#8) ∧ wordResult (.raw 5#56 0x80#8) = true ∧
    decode ⟨0x40#8, 0x80#128, 0#64⟩ = .ok (.sign 0x80#64) ∧ wordResult (.sign 0x80#64) = false :=
  ⟨rfl, rfl, rfl, rfl⟩

theorem witness_UnderflowFlagOnlyFromFour :
    decode ⟨0x53#8, 1#128, 0#64⟩ = .ok (.fromf64 1#64) ∧ (EXEC ⟨0x53#8, 1#128, 0#64⟩).flags = 4#4 :=
  ⟨rfl, by decide +kernel⟩

/-- One request in each of the three cases. -/
theorem witness_OverflowFlagOnlyWhereListed :
    (decode ⟨0x32#8, 0x800000000000007F#128, 0#64⟩ = .ok (.neg 0x800000000000007F#64) ∧
      (EXEC ⟨0x32#8, 0x800000000000007F#128, 0#64⟩).flags = 3#4) ∧
    (decode ⟨0x45#8, 0x7FFFFFFFFFFFFF7F#128, 128#64⟩ = .ok (.round 0x7FFFFFFFFFFFFF7F#64 128) ∧
      (EXEC ⟨0x45#8, 0x7FFFFFFFFFFFFF7F#128, 128#64⟩).flags = 3#4) ∧
    (decode ⟨0x52#8, 0xFF800000#128, 0#64⟩ = .ok (.fromf32 0xFF800000#32) ∧
      (EXEC ⟨0x52#8, 0xFF800000#128, 0#64⟩).flags = 3#4) :=
  ⟨⟨rfl, by decide +kernel⟩, ⟨rfl, by decide +kernel⟩, ⟨rfl, by decide +kernel⟩⟩

theorem witness_OnlyRawReturnsDenormalNan :
    decode ⟨0x30#8, 0x580#128, 0x100#64⟩ = .ok (.add 0x580#64 0x100#64) ∧ wordResult (.add 0x580#64 0x100#64) = true ∧
    (EXEC ⟨0x30#8, 0x580#128, 0x100#64⟩).r = NAN.setWidth 128 ∧ isnan NAN = true :=
  ⟨rfl, rfl, by decide +kernel, rfl⟩

/-- The corners of the range. -/
theorem witness_PackRoundTrips :
    (MINC ≤ MINC ∧ MINC ≤ MAXC ∧ MINC ≠ 0 ∧ MINE ≤ MINE ∧ MINE ≤ MAXE) ∧
    (MINC ≤ MAXC ∧ MAXC ≤ MAXC ∧ MAXC ≠ 0 ∧ MINE ≤ MAXE ∧ MAXE ≤ MAXE) := by decide

/-- Each clause at the edge of its range: in range at `MINC` and exponent -127; just out of range, one lift, at
exponents 126 and 127; out of range with nineteen lifts; in range above and below the exponent range. -/
theorem witness_PackIsItsClosedForm :
    (MINC ≠ 0 ∧ inCoefRange MINC = true ∧ MINE ≤ (-127 : Int) ∧ (-127 : Int) ≤ MAXE) ∧
    (inCoefRange (MAXC + 1) = false ∧ 1 ≤ 1 ∧ inCoefRange (tdiv (MAXC + 1) (10 ^ 1)) = true ∧
      (∀ i : Nat, i < 1 → inCoefRange (tdiv (MAXC + 1) (10 ^ i)) = false) ∧ MAXE < 127 + ((1 : Nat) : Int) ∧
      126 + ((1 : Nat) : Int) ≤ MAXE) ∧
    (inCoefRange (10 ^ 35) = false ∧ inCoefRange (tdiv (10 ^ 35) (10 ^ 19)) = true ∧
      (∀ i : Nat, i < 19 → inCoefRange (tdiv (10 ^ 35) (10 ^ i)) = false)) ∧
    (MAXC ≠ 0 ∧ inCoefRange MAXC = true ∧ MAXE < (128 : Int)) ∧ (-128 : Int) < MINE := by decide +kernel

theorem witness_PackRoundsToNearest : inCoefRange (MAXC + 1) = false ∧ MINE ≤ (-127 : Int) := by decide

/-- A second word other than `MINC`, and `MINC` at exponents 126 and 127. -/
theorem witness_EqIsExact :
    (isnan 0x17F#64 = false ∧ isnan 0x181#64 = false ∧ coef 0x181#64 ≠ MINC) ∧
    (isnan 0x800000000000007E#64 = false ∧ coef 0x800000000000007E#64 = MINC ∧ 0x100#64 ≠ 0x800000000000007E#64 ∧
      expo 0x800000000000007E#64 < MAXE) ∧
    (isnan 0x800000000000007F#64 = false ∧ coef 0x800000000000007F#64 = MINC ∧ 0x100#64 ≠ 0x800000000000007F#64 ∧
      expo 0x800000000000007F#64 = MAXE) := by decide

/-- The difference of `(MAXC, 127)` and `(-MAXC, 127)` overflows; that of a word and itself does not. The clauses about
a second `MINC` have the hypotheses of `witness_EqIsExact`. -/
theorem witness_CmpIsTheTrueOrder :
    (isnan 0x7FFFFFFFFFFFFF7F#64 = false ∧ isnan 0x800000000000017F#64 = false ∧
      coef 0x800000000000017F#64 ≠ MINC ∧
      exec (.sub 0x7FFFFFFFFFFFFF7F#64 0x800000000000017F#64) State.reset =
        .next (State.reset.offer (placeD NAN) 3#4) ∧
      0x7FFFFFFFFFFFFF7F#64 ≠ 0x800000000000017F#64) ∧
    ¬(exec (.sub 0x100#64 0x100#64) State.reset = .next (State.reset.offer (placeD NAN) 3#4) ∧
      0x100#64 ≠ 0x100#64) :=
  ⟨⟨by decide, by decide, by decide,
    congrArg Host.Outcome.next (by decide +kernel :
      State.reset.offer (placeD (sub 0x7FFFFFFFFFFFFF7F#64 0x800000000000017F#64).w)
        (wordFlags (sub 0x7FFFFFFFFFFFFF7F#64 0x800000000000017F#64)) = _), by decide⟩, fun h => h.2 rfl⟩

theorem witness_NanComparesOnlyToItself :
    0x80#64 ≠ 0x580#64 ∧ isnan 0x80#64 = true ∧ isnan 0x580#64 = true := by decide

theorem witness_NanOperandGivesNan : isnan 0x8000000000000080#64 = true := by decide

/-- The accumulator takes `10^18` and not `10^19`, so of a gap of 20 two places are left. -/
theorem witness_AddIsItsRule :
    (isnan 0x80#64 = true) ∧ (isnan 0x100#64 = false ∧ expo 0x100#64 = expo 0x200#64) ∧
    (expo 0x100#64 < expo 0x114#64 ∧ isnan 0x114#64 = false ∧ coef 0x100#64 ≠ 0 ∧
      18 ≤ (expo 0x114#64 - expo 0x100#64).toNat ∧ inAccumulator (10 ^ 18 * coef 0x114#64) = true ∧
      18 < (expo 0x114#64 - expo 0x100#64).toNat ∧ inAccumulator (10 ^ (18 + 1) * coef 0x114#64) = false) ∧
    (expo 0x3#64 < expo 0x305#64 ∧ coef 0x3#64 = 0) := by decide +kernel

/-- `(1, 0) + (1, -16)`: the sum `10^16 + 1` is in range. -/
theorem witness_AddIsExactWhenItFits :
    isnan 0x100#64 = false ∧ isnan 0x1F0#64 = false ∧
    inCoefRange
      (coef 0x100#64 * 10 ^ (expo 0x100#64 - min (expo 0x100#64) (expo 0x1F0#64)).toNat +
        coef 0x1F0#64 * 10 ^ (expo 0x1F0#64 - min (expo 0x100#64) (expo 0x1F0#64)).toNat) = true := by
  decide +kernel

theorem witness_SubIsAddOfNegation :
    isnan 0x80#64 = true ∧ isnan 0x100#64 = false ∧
    exec (.neg 0x8000000000000000#64) State.reset =
      .next (State.reset.offer (placeD 0x0CCCCCCCCCCCCD01#64) 0#4) ∧
    exec (.neg 0x800000000000007F#64) State.reset = .next (State.reset.offer (placeD NAN) 3#4) :=
  ⟨by decide, by decide,
    congrArg Host.Outcome.next (by decide +kernel :
      State.reset.offer (placeD (neg 0x8000000000000000#64).w) (wordFlags (neg 0x8000000000000000#64)) = _),
    congrArg Host.Outcome.next (by decide +kernel :
      State.reset.offer (placeD (neg 0x800000000000007F#64).w) (wordFlags (neg 0x800000000000007F#64)) = _)⟩

/-- A word in each clause of NEG and of ABS. -/
theorem witness_NegNegates :
    isnan 0x580#64 = true ∧ iszero 0x5#64 = true ∧
    (isnan 0x800000000000007E#64 = false ∧ coef 0x800000000000007E#64 = MINC ∧ expo 0x800000000000007E#64 < MAXE) ∧
    (isnan 0x800000000000007F#64 = false ∧ coef 0x800000000000007F#64 = MINC ∧ expo 0x800000000000007F#64 = MAXE) ∧
    (isnan 0x800000000000017F#64 = false ∧ coef 0x800000000000017F#64 ≠ 0 ∧ coef 0x800000000000017F#64 ≠ MINC) := by
  decide

theorem witness_AbsTakesTheMagnitude :
    isnan 0x580#64 = true ∧ iszero 0x5#64 = true ∧
    (coef 0x8000000000000081#64 = MINC ∧ expo 0x8000000000000081#64 < MAXE) ∧
    (coef 0x800000000000007F#64 = MINC ∧ expo 0x800000000000007F#64 = MAXE) ∧
    (isnan 0x8000000000000181#64 = false ∧ coef 0x8000000000000181#64 ≠ 0 ∧ coef 0x8000000000000181#64 ≠ MINC) := by
  decide

theorem witness_DoubleNegationIsIdentity :
    isnan 0x800000000000017F#64 = false ∧ coef 0x800000000000017F#64 ≠ 0 ∧ coef 0x800000000000017F#64 ≠ MINC ∧
    exec (.neg 0x800000000000017F#64) State.reset =
      .next (State.reset.offer (placeD 0x7FFFFFFFFFFFFF7F#64) 0#4) :=
  ⟨by decide, by decide, by decide,
    congrArg Host.Outcome.next (by decide +kernel :
      State.reset.offer (placeD (neg 0x800000000000017F#64).w) (wordFlags (neg 0x800000000000017F#64)) = _)⟩

/-- NaN; a zero; `2^28 * 2^27 = 2^55` with one division (`n = 1`); a product in range with none (`n = 0`). -/
theorem witness_MulIsItsRule :
    isnan 0x80#64 = true ∧ (isnan 0x5#64 = false ∧ coef 0x5#64 = 0) ∧
    (coef 0x0000001000000064#64 ≠ 0 ∧ coef 0x000000080000001B#64 ≠ 0 ∧
      inCoefRange (tdiv (coef 0x0000001000000064#64 * coef 0x000000080000001B#64) (10 ^ 1)) = true ∧
      MINE ≤ expo 0x0000001000000064#64 + expo 0x000000080000001B#64 + 1 ∧
      (∀ i : Nat, i < 1 →
        ¬(inCoefRange (tdiv (coef 0x0000001000000064#64 * coef 0x000000080000001B#64) (10 ^ i)) = true ∧
          MINE ≤ expo 0x0000001000000064#64 + expo 0x000000080000001B#64 + i))) ∧
    (inCoefRange (tdiv (coef 0x200#64 * coef 0x300#64) (10 ^ 0)) = true ∧ MINE ≤ expo 0x200#64 + expo 0x300#64 + 0) := by
  decide +kernel

theorem witness_MulIsExactWhenItFits :
    isnan 0x57F#64 = false ∧ isnan 0x281#64 = false ∧ coef 0x57F#64 ≠ 0 ∧ coef 0x281#64 ≠ 0 ∧
    inCoefRange (coef 0x57F#64 * coef 0x281#64) = true ∧ MINE ≤ expo 0x57F#64 + expo 0x281#64 ∧
    expo 0x57F#64 + expo 0x281#64 ≤ MAXE := by decide

theorem witness_DivIsItsRule :
    isnan 0x80#64 = true ∧ (isnan 0x0#64 = false ∧ iszero 0x5#64 = true) ∧
    (iszero 0x5#64 = true ∧ isnan 0x300#64 = false ∧ coef 0x300#64 ≠ 0) ∧
    (isnan 0x100#64 = false ∧ coef 0x100#64 ≠ 0 ∧ isnan 0x8000000000000000#64 = false ∧
      coef 0x8000000000000000#64 ≠ 0) := by decide

/-- `(5, 0)` is an integer, `(25, -1)` and a NaN are not. -/
theorem witness_IsintTestsIntegrality :
    (isnan 0x500#64 = false ∧ ∃ z : Int, value 0x500#64 = z) ∧
    ¬(isnan 0x19FF#64 = false ∧ ∃ z : Int, value 0x19FF#64 = z) ∧
    ¬(isnan 0x80#64 = false ∧ ∃ z : Int, value 0x80#64 = z) := by
  refine ⟨⟨by decide, 5, ?_⟩, ?_, fun h => absurd h.1 (by decide)⟩
  · rw [value, show coef 0x500#64 = 5 by decide, show expo 0x500#64 = 0 by decide]; norm_num
  · rintro ⟨-, z, hz⟩
    rw [value, show coef 0x19FF#64 = 25 by decide, show expo 0x19FF#64 = -1 by decide] at hz
    have h : (25 : ℚ) = z * 10 := by rw [← hz]; norm_num
    have h' : (25 : Int) = z * 10 := by exact_mod_cast h
    omega

/-- A word in each clause of FLOOR, at the clause's boundary: exponents 0, -19, -18 and -1. -/
theorem witness_FloorIsGreatestInteger :
    (isnan 0x0#64 = false ∧ 0 ≤ expo 0x0#64) ∧ (isnan 0x80000000000000ED#64 = false ∧ expo 0x80000000000000ED#64 ≤ -19) ∧
    (isnan 0x80000000000000EE#64 = false ∧ -19 < expo 0x80000000000000EE#64 ∧ expo 0x80000000000000EE#64 < 0) ∧
    (isnan 0x80000000000000FF#64 = false ∧ -19 < expo 0x80000000000000FF#64 ∧ expo 0x80000000000000FF#64 < 0) := by
  decide

/-- The same for CEIL. -/
theorem witness_CeilIsLeastInteger :
    (isnan 0x9#64 = false ∧ 0 ≤ expo 0x9#64) ∧ (isnan 0x7FFFFFFFFFFFFFED#64 = false ∧ expo 0x7FFFFFFFFFFFFFED#64 ≤ -19) ∧
    (isnan 0x1EE#64 = false ∧ -19 < expo 0x1EE#64 ∧ expo 0x1EE#64 < 0) ∧
    (isnan 0x1FF#64 = false ∧ -19 < expo 0x1FF#64 ∧ expo 0x1FF#64 < 0) := by decide

theorem witness_FloorAndCeilBracketTheOperand : isnan 0x80000000000000FF#64 = false := by decide

theorem witness_RoundTakesTheNearestMultiple :
    isnan 0x47F#64 = false ∧ (127 : Int) ≤ expo 0x47F#64 ∧ expo 0x47F#64 < 128 := by decide

theorem witness_FromIntegerIsPack :
    -(2 : Int) ^ 127 ≤ -2 ^ 127 ∧ (2 : Int) ^ 128 - 1 < 2 ^ 128 ∧
    Instr.fromu128 (2 ^ 128 - 1) ∈ [Instr.fromi128 (2 ^ 128 - 1), .fromu128 (2 ^ 128 - 1)] := by decide +kernel

theorem witness_FromIntegerKeepsWhatFits : MINC ≤ MINC ∧ MINC ≤ MAXC ∧ MAXC ≤ MAXC := by decide

theorem witness_ToIntegerWraps :
    (13 * 10 : Int) = (if expo 0xD01#64 ≤ 0 then coef 0xD01#64 else coef 0xD01#64 * 10 ^ (expo 0xD01#64).toNat) ∧
    (25 : Int) = (if expo 0x19FF#64 ≤ 0 then coef 0x19FF#64 else coef 0x19FF#64 * 10 ^ (expo 0x19FF#64).toNat) := by
  decide

theorem witness_IntegerRoundTrips :
    MINC ≤ (-128 : Int) ∧ (255 : Int) ≤ MAXC ∧ signedFits 8 (-128) = true ∧ unsignedFits 8 255 = true ∧
    exec (.fromi8 (-128)) State.reset = .next (State.reset.offer (placeD 0xFFFFFFFFFFFF8000#64) 0#4) ∧
    exec (.fromu8 255) State.reset = .next (State.reset.offer (placeD 0xFF00#64) 0#4) :=
  ⟨by decide, by decide, by decide, by decide,
    congrArg Host.Outcome.next (by decide +kernel :
      State.reset.offer (placeD (fromInt (-128)).w) (wordFlags (fromInt (-128))) = _),
    congrArg Host.Outcome.next (by decide +kernel :
      State.reset.offer (placeD (fromInt 255).w) (wordFlags (fromInt 255)) = _)⟩

theorem witness_ToFloatByClass :
    isnan 0x580#64 = true ∧ iszero 0x64#64 = true ∧ (isnan 0x181#64 = false ∧ iszero 0x181#64 = false) := by decide

/-- Exponent 0 with the greatest coefficients that both precisions hold, and a negative one. -/
theorem witness_ToFloatAtExponentZero :
    (expo 0x8000000000000000#64 = 0 ∧ coef 0x8000000000000000#64 < 0) ∧ expo 0x100000000#64 = 0 ∧ (coef 0x100000000#64).natAbs = 2 ^ 24 ∧
    expo 0x2000000000000000#64 = 0 ∧ (coef 0x2000000000000000#64).natAbs = 2 ^ 53 := by decide +kernel

theorem witness_FromFloatSpecials :
    ((0x7F800001#32).extractLsb' 23 8 = 0xFF#8 ∧ (0x7F800001#32).extractLsb' 0 23 ≠ 0#23) ∧
    ((0xFF800000#32).extractLsb' 23 8 = 0xFF#8 ∧ (0xFF800000#32).extractLsb' 0 23 = 0#23) ∧
    (0x80000000#32).extractLsb' 0 31 = 0#31 ∧
    ((0x7FF0000000000001#64).extractLsb' 52 11 = 0x7FF#11 ∧ (0x7FF0000000000001#64).extractLsb' 0 52 ≠ 0#52) ∧
    ((0xFFF0000000000000#64).extractLsb' 52 11 = 0x7FF#11 ∧ (0xFFF0000000000000#64).extractLsb' 0 52 = 0#52) ∧
    (0x8000000000000000#64).extractLsb' 0 63 = 0#63 := by decide

/-- The least and the greatest finite magnitude. -/
theorem witness_FromFloatPacksShortestDigits :
    ((0x00000001#32).extractLsb' 23 8 ≠ 0xFF#8 ∧ (0x00000001#32).extractLsb' 0 31 ≠ 0#31) ∧
    ((0xFF7FFFFF#32).extractLsb' 23 8 ≠ 0xFF#8 ∧ (0xFF7FFFFF#32).extractLsb' 0 31 ≠ 0#31) ∧
    ((0x1#64).extractLsb' 52 11 ≠ 0x7FF#11 ∧ (0x1#64).extractLsb' 0 63 ≠ 0#63) ∧
    ((0xFFEFFFFFFFFFFFFF#64).extractLsb' 52 11 ≠ 0x7FF#11 ∧ (0xFFEFFFFFFFFFFFFF#64).extractLsb' 0 63 ≠ 0#63) := by
  decide

/-- The least and the greatest finite magnitude; `13 * 10^-46`, longer, and `2 * 10^-45`, of the same length, also round
to the least, and `3 * 10^-45` does not. -/
theorem witness_ShortestDigitsRoundTrip :
    (0 < 1 ∧ 1 < binary32.infinity ∧ binary32.shortest 1 = some (1, -45)) ∧
    (0 < 0x7FEFFFFFFFFFFFFF ∧ 0x7FEFFFFFFFFFFFFF < binary64.infinity ∧
      binary64.shortest 0x7FEFFFFFFFFFFFFF = some (17976931348623157, 292)) ∧
    binary32.roundMagnitude (3 * powNum 10 (-45)) (powDen 10 (-45)) ≠ 1 ∧
    binary32.roundMagnitude (13 * powNum 10 (-46)) (powDen 10 (-46)) = 1 ∧
    (binary32.roundMagnitude (2 * powNum 10 (-45)) (powDen 10 (-45)) = 1 ∧
      (Nat.digits 10 2).length = (Nat.digits 10 1).length) :=
  ⟨by decide +kernel, by decide +kernel, by decide +kernel, by decide +kernel, by decide +kernel, by simp⟩

/-- Halfway past the largest finite binary32 value is infinity, anything below is not, and a tie between 0 and the
least subnormal goes to 0 (R167). -/
theorem test_round_magnitude_edges :
    binary32.roundMagnitude ((2 ^ 25 - 1) * 2 ^ 103) 1 = binary32.infinity ∧
    binary32.roundMagnitude ((2 ^ 25 - 1) * 2 ^ 103 - 1) 1 = binary32.infinity - 1 ∧
    binary32.roundMagnitude 1 (2 ^ 150) = 0 := by decide +kernel

/-- A pattern for every clause: both bounds of the fields, a NaN, infinities, -0 and finite values. -/
theorem witness_FloatRoundingIsNearestEven :
    (255 < 2 ^ binary32.w ∧ 2 ^ 23 - 1 < 2 ^ (binary32.p - 1) ∧ 0 < 2 ^ 150) ∧
    binary32.value 0x7FC00000 = .nan ∧ binary32.value 0xFF800000 = .infinite true ∧
    binary32.value 0x80000000 = .finite true 0 (-149) ∧ binary32.value 0x7F7FFFFF = .finite false (2 ^ 24 - 1) 104 ∧
    binary64.value 0x7FF8000000000000 = .nan ∧ binary64.value 0x7FF0000000000000 = .infinite false ∧
    binary64.value 0x8000000000000000 = .finite true 0 (-1074) ∧
    binary64.value 0x7FEFFFFFFFFFFFFF = .finite false (2 ^ 53 - 1) 971 := by decide +kernel

end Sys2Proof.Tests
end

section
/-! Proofs of the packing family (40_packing.md R70 to R78): PACK on pairs that it keeps, RAW, and the accessors COEF,
EXPO, ISNAN and ISZERO. -/

namespace Sys2Proof.Machine

/-! ### The flags and the classes of an assembled word -/

/-- Without a flag of the rule, only NANF can be set (R52). -/
theorem wordFlags_none (w : Word) : wordFlags ⟨w, FlagSet.none⟩ = if isnan w = true then 1#4 else 0#4 := by
  cases h : isnan w with
  | true => simp only [wordFlags, h]; rfl
  | false => simp only [wordFlags, h]; rfl

theorem isnan_append (c : BitVec 56) (e : BitVec 8) : isnan (c ++ e) = true ↔ e = 0x80#8 := by
  have he : (c ++ e).extractLsb' 0 8 = e := BitVec.extractLsb'_append_eq_right
  rw [isnan, he, beq_iff_eq]

theorem expo_word_of_in_range (c : Int) {e : Int} (h1 : MINE ≤ e) (h2 : e ≤ MAXE) : expo (word c e) = e :=
  expo_word c (le_trans (by decide) h1) h2

/-- The exponent byte of a NaN lies just below `MINE` (R27). -/
theorem isnan_word_of_in_range (c : Int) {e : Int} (h1 : MINE ≤ e) (h2 : e ≤ MAXE) : isnan (word c e) = false := by
  have hne : e ≠ -128 := (lt_of_lt_of_le (by decide) h1).ne'
  rw [Bool.eq_false_iff, ne_eq, isnan_iff, expo_word_of_in_range c h1 h2]
  exact hne

/-! ### PACK of a zero coefficient and of a pair in range -/

theorem exec_pack (c e : Int) (s : State) :
    exec (.pack c e) s = .next (s.offer (placeD (pack c e).w) (wordFlags (pack c e))) := rfl

/-- Step 1 of R70. -/
theorem pack_zero (e : Int) : pack 0 e = ⟨ZERO, FlagSet.none⟩ := by
  simp [pack]

/-- Step 2 of R70. -/
theorem pack_of_in_range {c e : Int} (h0 : c ≠ 0) (hc : inCoefRange c = true) (h1 : MINE ≤ e) (h2 : e ≤ MAXE) :
    pack c e = ⟨word c e, FlagSet.none⟩ := by
  have hpack : pack c e = packExponent c e := by simp [pack, h0, hc]
  rw [hpack, packExponent, if_neg (by omega), if_neg (by omega)]

theorem exec_pack_zero (e : Int) (s : State) : exec (.pack 0 e) s = .next (s.offer (placeD ZERO) 0#4) := by
  rw [exec_pack, pack_zero]; rfl

theorem exec_pack_of_in_range {c e : Int} (s : State) (h0 : c ≠ 0) (hc : inCoefRange c = true) (h1 : MINE ≤ e)
    (h2 : e ≤ MAXE) : exec (.pack c e) s = .next (s.offer (placeD (word c e)) 0#4) := by
  rw [exec_pack, pack_of_in_range h0 hc h1 h2, wordFlags_none, isnan_word_of_in_range c h1 h2]; rfl

/-- Settles O23: steps 1 and 2 of `pack`, and the fields of an assembled word read back. -/
theorem packRoundTrips : Obligations.PackRoundTrips := by
  refine ⟨fun c e s hmin hmax h0 h1 h2 => ?_, fun e s => exec_pack_zero e s⟩
  have hc : inCoefRange c = true := inCoefRange_iff.2 ⟨hmin, hmax⟩
  exact ⟨exec_pack_of_in_range s h0 hc h1 h2, coef_word hc e, expo_word_of_in_range c h1 h2⟩

/-! ### RAW -/

theorem exec_raw (c : BitVec 56) (e : BitVec 8) (s : State) :
    exec (.raw c e) s = .next (s.offer (placeD (c ++ e)) (wordFlags ⟨c ++ e, FlagSet.none⟩)) := rfl

theorem decode_raw (p : Port) (q : BitVec 64) :
    decode ⟨0x11#8, p, q⟩ = .ok (.raw (operandRa p) (operandRb q)) := rfl

/-- Settles O27: RAW assembles its operands unchecked, and NANF is decided by the exponent bits. -/
theorem rawAssemblesTheFields : Obligations.RawAssemblesTheFields := by
  refine ⟨decode_raw, fun c e s => ?_⟩
  rw [exec_raw, wordFlags_none]
  simp only [isnan_append, placeD]

/-! ### The accessors -/

/-- The coefficient is the word shifted right arithmetically by 8 (R25). -/
theorem coef_eq_toInt_sshiftRight (w : Word) : coef w = (w.sshiftRight 8).toInt := by
  have hfield : (w.extractLsb' 8 56).toNat = w.toNat / 256 % 2 ^ 56 := by
    rw [BitVec.extractLsb'_toNat, Nat.shiftRight_eq_div_pow]
  have hw := w.isLt
  rw [coef, BitVec.toInt_sshiftRight, Int.shiftRight_eq_div_pow, BitVec.toInt_eq_toNat_cond,
    BitVec.toInt_eq_toNat_cond, hfield]
  omega

/-- The exponent is the low byte of the word (R26). -/
theorem expo_eq_toInt_setWidth (w : Word) : expo w = (w.setWidth 8).toInt := by
  rw [expo, BitVec.setWidth_eq_extractLsb' (by decide)]

theorem placeSigned_toInt {n : Nat} (x : BitVec n) : placeSigned x.toInt = x.signExtend 128 := rfl

theorem placeTruth_of_iff {t : Bool} {P : Prop} [Decidable P] (h : t = true ↔ P) :
    placeTruth t = if P then 1#128 else 0#128 := by
  simp only [placeTruth, h]

theorem exec_coef (w : Word) (s : State) :
    exec (.coef w) s = .next (s.offer (placeSigned (coef w)) 0#4) := rfl

theorem exec_expo (w : Word) (s : State) :
    exec (.expo w) s = .next (s.offer (placeSigned (expo w)) 0#4) := rfl

theorem exec_isnan (w : Word) (s : State) :
    exec (.isnan w) s = .next (s.offer (placeTruth (isnan w)) 0#4) := rfl

theorem exec_iszero (w : Word) (s : State) :
    exec (.iszero w) s = .next (s.offer (placeTruth (iszero w)) 0#4) := rfl

theorem decode_coef (p : Port) (q : BitVec 64) : decode ⟨0x12#8, p, q⟩ = .ok (.coef (operandD p)) := rfl

theorem decode_expo (p : Port) (q : BitVec 64) : decode ⟨0x13#8, p, q⟩ = .ok (.expo (operandD p)) := rfl

theorem decode_isnan (p : Port) (q : BitVec 64) : decode ⟨0x14#8, p, q⟩ = .ok (.isnan (operandD p)) := rfl

theorem decode_iszero (p : Port) (q : BitVec 64) : decode ⟨0x15#8, p, q⟩ = .ok (.iszero (operandD p)) := rfl

/-- Settles O28: the two fields as the shifted word and its low byte, and the two classes as truth values. -/
theorem accessorsReadTheWord : Obligations.AccessorsReadTheWord := by
  refine ⟨decode_coef, decode_expo, decode_isnan, decode_iszero, fun w s => ⟨?coef, ?expo, ?isnan, ?iszero⟩⟩
  case coef => rw [exec_coef, coef_eq_toInt_sshiftRight, placeSigned_toInt]
  case expo => rw [exec_expo, expo_eq_toInt_setWidth, placeSigned_toInt]
  case isnan => rw [exec_isnan, placeTruth_of_iff (isnan_iff w)]
  case iszero => rw [exec_iszero, placeTruth_of_iff (iszero_iff w)]

end Sys2Proof.Machine
end

section
/-! Proofs of the additive part of the arithmetic family (42_arithmetic.md R100 to R102): NEG, ADD and SUB. -/

namespace Sys2Proof.Machine

/-! ### A DEC64 answer on the ports -/

theorem flagBundle_bits : ∀ ill unf ovf nanf : Bool,
    (flagBundle ill unf ovf nanf).getLsbD 0 = nanf ∧ (flagBundle ill unf ovf nanf).getLsbD 1 = ovf ∧
    (flagBundle ill unf ovf nanf).getLsbD 2 = unf := by decide

theorem placeD_injective : Function.Injective placeD := fun v w h => by
  simpa [placeD] using congrArg (BitVec.setWidth 64) h

theorem answerD_of_not_isnan {w : Word} (h : isnan w = false) (s : State) :
    answerD ⟨w, FlagSet.none⟩ s = .next (s.offer (placeD w) 0#4) := by
  rw [answerD, wordFlags_none, h]; rfl

theorem answerD_NAN (s : State) : answerD ⟨NAN, FlagSet.none⟩ s = .next (s.offer (placeD NAN) 1#4) := rfl

theorem answerD_ZERO (s : State) : answerD ⟨ZERO, FlagSet.none⟩ s = .next (s.offer (placeD ZERO) 0#4) := rfl

theorem answerD_overflow (s : State) : answerD ⟨NAN, FlagSet.overflow⟩ s = .next (s.offer (placeD NAN) 3#4) := rfl

/-- The ports show the whole answer: its word, its two flags in bits 1 and 2, and the class of its word in bit 0
(R52, R54). -/
theorem answer_of_answerD_eq {p : Answer} {s : State} {w : Word} {f : FlagBits}
    (h : answerD p s = .next (s.offer (placeD w) f)) :
    p = ⟨w, f.getLsbD 1, f.getLsbD 2⟩ ∧ isnan w = f.getLsbD 0 := by
  have hports := answerD_next s h
  have hw : w = p.w := placeD_injective (congrArg State.rspR hports)
  have hf : f = wordFlags p := congrArg State.rspFlags hports
  obtain ⟨hnanf, hovf, hunf⟩ := flagBundle_bits false p.f.unf p.f.ovf (isnan p.w)
  subst hw hf
  exact ⟨by rw [wordFlags, hovf, hunf], hnanf.symm⟩

theorem exec_pack_eq_answerD (c e : Int) (s : State) : exec (.pack c e) s = answerD (pack c e) s := rfl

theorem exec_neg (a : Word) (s : State) : exec (.neg a) s = answerD (neg a) s := rfl

theorem exec_add (a b : Word) (s : State) : exec (.add a b) s = answerD (add a b) s := rfl

theorem exec_sub (a b : Word) (s : State) : exec (.sub a b) s = answerD (sub a b) s := rfl

theorem decode_neg (p : Port) (q : BitVec 64) : decode ⟨0x32#8, p, q⟩ = .ok (.neg (operandD p)) := rfl

theorem decode_add (p : Port) (q : BitVec 64) : decode ⟨0x30#8, p, q⟩ = .ok (.add (operandD p) q) := rfl

theorem decode_sub (p : Port) (q : BitVec 64) : decode ⟨0x31#8, p, q⟩ = .ok (.sub (operandD p) q) := rfl

/-! ### Words that are not NaN -/

theorem MINE_le_expo {w : Word} (h : isnan w = false) : MINE ≤ expo w := by
  have hne : expo w ≠ -128 := fun he => by simp [(isnan_iff w).2 he] at h
  have hb := expo_bounds w
  simp only [MINE]
  omega

theorem isnan_word_expo (c : Int) {a : Word} (h : isnan a = false) : isnan (word c (expo a)) = false :=
  isnan_word_of_in_range c (MINE_le_expo h) (expo_bounds a).2

theorem value_word {c e : Int} (hc : inCoefRange c = true) (h1 : MINE ≤ e) (h2 : e ≤ MAXE) :
    value (word c e) = (c : ℚ) * (10 : ℚ) ^ e := by
  rw [value, coef_word hc, expo_word_of_in_range c h1 h2]

/-- Only `MINC` leaves the coefficient range by negation (R102). -/
theorem neg_coef_in_range {a : Word} (h : coef a ≠ MINC) : inCoefRange (-coef a) = true := by
  have hb := coef_bounds a
  rw [inCoefRange_iff]
  simp only [MINC, MAXC] at h hb ⊢
  omega

/-! ### NEG -/

theorem neg_of_isnan {a : Word} (h : isnan a = true) : neg a = ⟨NAN, FlagSet.none⟩ := by
  simp [neg, h]

theorem neg_of_coef_eq_zero {a : Word} (hn : isnan a = false) (h : coef a = 0) : neg a = ⟨ZERO, FlagSet.none⟩ := by
  simp [neg, hn, h]

theorem neg_of_coef_eq_MINC {a : Word} (hn : isnan a = false) (h : coef a = MINC) :
    neg a = pack (-MINC) (expo a) := by
  simp [neg, hn, h]

theorem neg_of_coef_ne {a : Word} (hn : isnan a = false) (h0 : coef a ≠ 0) (hmin : coef a ≠ MINC) :
    neg a = ⟨word (-coef a) (expo a), FlagSet.none⟩ := by
  simp only [neg, hn, Bool.false_eq_true, if_false, if_neg h0, if_neg hmin]

/-- One lift of `-MINC`: the quotient by ten, rounded up on the dropped 8; without an increment of the exponent left
there is none. -/
theorem liftRound_neg_MINC (e : Int) :
    liftRound (-MINC) e = if e < MAXE then some (3602879701896397, e + 1) else none := by
  unfold liftRound
  cases hk : (MAXE - e).toNat with
  | zero => rw [if_neg (by omega)]; rfl
  | succ k =>
    have hlift : liftSteps (k + 1) (-MINC) = some (3602879701896396, 8, k) := by
      rw [liftSteps, if_pos (by decide)]; rfl
    have he : MAXE - (k : Int) = e + 1 := by omega
    rw [if_pos (by omega)]
    simp only [hlift, he]
    rfl

theorem pack_neg_MINC_of_lt {e : Int} (h1 : MINE ≤ e) (h2 : e < MAXE) :
    pack (-MINC) e = ⟨word 3602879701896397 (e + 1), FlagSet.none⟩ := by
  have hr : inCoefRange 3602879701896397 = true := by decide
  have hlift : pack (-MINC) e = packExponent 3602879701896397 (e + 1) := by
    rw [pack, if_neg (by decide), if_neg (by decide), liftRound_neg_MINC, if_pos h2]
    exact if_pos hr
  rw [hlift, packExponent, if_neg (by omega), if_neg (by omega)]

theorem pack_neg_MINC_MAXE : pack (-MINC) MAXE = ⟨NAN, FlagSet.overflow⟩ := by
  rw [pack, if_neg (by decide), if_neg (by decide), liftRound_neg_MINC, if_neg (lt_irrefl _)]

/-- Settles O38: a lemma for each exit of R102; the two exits for `MINC` turn on the one lift of `-MINC`. -/
theorem negNegates : Obligations.NegNegates := by
  refine ⟨decode_neg, fun a s => ⟨?nan, ?zero, ?minc, ?overflow, ?negated⟩⟩
  case nan =>
    intro hn
    rw [exec_neg, neg_of_isnan hn, answerD_NAN]
  case zero =>
    intro hz
    obtain ⟨hc, he⟩ := (iszero_iff a).1 hz
    have hn : isnan a = false := by rwa [Bool.eq_false_iff, ne_eq, isnan_iff]
    rw [exec_neg, neg_of_coef_eq_zero hn hc, answerD_ZERO]
  case minc =>
    intro hn hc he
    have hmin := MINE_le_expo hn
    rw [exec_neg, neg_of_coef_eq_MINC hn hc, pack_neg_MINC_of_lt hmin he,
      answerD_of_not_isnan (isnan_word_of_in_range _ (by omega) (by omega))]
  case overflow =>
    intro hn hc he
    rw [exec_neg, neg_of_coef_eq_MINC hn hc, he, pack_neg_MINC_MAXE, answerD_overflow]
  case negated =>
    intro hn h0 hmin
    rw [exec_neg, neg_of_coef_ne hn h0 hmin, answerD_of_not_isnan (isnan_word_expo _ hn)]
    refine ⟨rfl, ?_⟩
    rw [value_word (neg_coef_in_range hmin) (MINE_le_expo hn) (expo_bounds a).2, value]
    push_cast
    ring

/-! ### The alignment loop of ADD -/

theorem natAbs_ten_pow_mul_le (c : Int) {i j : Nat} (h : i ≤ j) : (10 ^ i * c).natAbs ≤ (10 ^ j * c).natAbs := by
  simp only [Int.natAbs_mul, Int.natAbs_pow]
  exact Nat.mul_le_mul_right _ (Nat.pow_le_pow_right (by decide) h)

/-- What fits the accumulator after `j` multiplications by ten fitted it after fewer. A signed range has one more
negative value than positive ones, and both products have the sign of `c`. -/
theorem inAccumulator_ten_pow_mono {c : Int} {i j : Nat} (hij : i ≤ j) (h : inAccumulator (10 ^ j * c) = true) :
    inAccumulator (10 ^ i * c) = true := by
  have habs := natAbs_ten_pow_mul_le c hij
  have hpi : (0 : Int) ≤ 10 ^ i := by positivity
  have hpj : (0 : Int) ≤ 10 ^ j := by positivity
  rw [inAccumulator_iff] at h ⊢
  rcases le_total 0 c with hc | hc
  · have hi := mul_nonneg hpi hc
    have hj := mul_nonneg hpj hc
    omega
  · have hi := mul_nonpos_of_nonneg_of_nonpos hpi hc
    have hj := mul_nonpos_of_nonneg_of_nonpos hpj hc
    omega

/-- `scaleUp` in closed form: the greatest number of multiplications is unique where a product that fits had only
products that fit before it. -/
theorem scaleUp_eq_of_greatest {fits : Int → Bool} {c : Int} {k j : Nat}
    (hmono : ∀ i, i ≤ j → fits (10 ^ i * c) = true) (hj : j ≤ k)
    (hstop : j < k → fits (10 ^ (j + 1) * c) = false) : scaleUp fits k c = (10 ^ j * c, k - j) := by
  obtain ⟨m, hm, heq, hfit, hmstop⟩ := scaleUp_spec fits k c
  have hnot_lt : ¬ m < j := fun hlt => by
    have h := hmono (m + 1) hlt
    rw [hmstop (by omega)] at h
    cases h
  have hnot_gt : ¬ j < m := fun hlt => by
    have h := hfit (j + 1) (by omega) hlt
    rw [hstop (by omega)] at h
    cases h
  obtain rfl : m = j := by omega
  exact heq

theorem addAligned_of_zero (hw : Word) (hc he le : Int) : addAligned hw hc he 0 le = ⟨hw, FlagSet.none⟩ :=
  if_pos rfl

/-- ADD with different exponents, the scaling in closed form (R100, D13). -/
theorem addAligned_of_greatest (hw : Word) {hc he lc le : Int} {j : Nat} (hle : le ≤ he) (h0 : lc ≠ 0)
    (hj : j ≤ (he - le).toNat) (hfit : inAccumulator (10 ^ j * hc) = true)
    (hstop : j < (he - le).toNat → inAccumulator (10 ^ (j + 1) * hc) = false) :
    addAligned hw hc he lc le = pack (10 ^ j * hc + tdiv lc (10 ^ ((he - le).toNat - j))) (he - j) := by
  have hscale : scaleUp inAccumulator (he - le).toNat hc = (10 ^ j * hc, (he - le).toNat - j) :=
    scaleUp_eq_of_greatest (fun i hij => inAccumulator_ten_pow_mono hij hfit) hj hstop
  have hexp : le + (((he - le).toNat - j : Nat) : Int) = he - j := by omega
  simp only [addAligned, if_neg h0, hscale, hexp]

/-! ### ADD -/

theorem add_of_isnan {a b : Word} (h : isnan a = true ∨ isnan b = true) : add a b = ⟨NAN, FlagSet.none⟩ := by
  rw [add, if_pos (by simpa using h)]

theorem add_of_expo_eq {a b : Word} (ha : isnan a = false) (hb : isnan b = false) (he : expo a = expo b) :
    add a b =
      if inCoefRange (coef a + coef b) = true then ⟨word (coef a + coef b) (expo a), FlagSet.none⟩
      else pack (coef a + coef b) (expo a) := by
  rw [add, if_neg (by simp [ha, hb]), if_pos he]

theorem add_of_expo_lt {a b : Word} (ha : isnan a = false) (hb : isnan b = false) (h : expo b < expo a) :
    add a b = addAligned a (coef a) (expo a) (coef b) (expo b) := by
  rw [add, if_neg (by simp [ha, hb]), if_neg h.ne', if_pos h]

theorem add_of_expo_gt {a b : Word} (ha : isnan a = false) (hb : isnan b = false) (h : expo a < expo b) :
    add a b = addAligned b (coef b) (expo b) (coef a) (expo a) := by
  rw [add, if_neg (by simp [ha, hb]), if_neg h.ne, if_neg h.not_gt]

/-- Settles O35: the three exits of R100 by the order of the exponents; with different exponents both operand orders
align the same pair, and the greatest number of places fixes how far the alignment loop runs. -/
theorem addIsItsRule : Obligations.AddIsItsRule := by
  refine ⟨decode_add, fun a b s => ⟨?nan, ?equal, ?aligned⟩⟩
  case nan =>
    intro hn
    rw [exec_add, add_of_isnan hn, answerD_NAN]
  case equal =>
    intro ha hb he
    rw [exec_add, add_of_expo_eq ha hb he]
    split
    · rw [answerD_of_not_isnan (isnan_word_expo _ ha)]
    · rw [exec_pack_eq_answerD]
  case aligned =>
    intro ha hb he
    rw [exec_add, exec_add, add_of_expo_lt ha hb he, add_of_expo_gt hb ha he]
    refine ⟨fun h0 => ?_, fun h0 j hj hfit hstop => ?_⟩
    · rw [h0, addAligned_of_zero, answerD_of_not_isnan ha]
      exact ⟨rfl, rfl⟩
    · rw [addAligned_of_greatest a he.le h0 hj hfit hstop, exec_pack_eq_answerD]
      exact ⟨rfl, rfl⟩

/-! ### UNF never comes from an exponent of at least `MINE` -/

theorem packExponent_unf_eq_false {c e : Int} (hc : inCoefRange c = true) (he : MINE ≤ e) :
    (packExponent c e).f.unf = false := by
  obtain ⟨-, -, hp⟩ | ⟨-, -, hp⟩ | ⟨-, hp⟩ | ⟨hlt, -⟩ | ⟨hlt, -⟩ := packExponent_cases hc e
  · rw [hp]; rfl
  · rw [hp]; rfl
  · rw [hp]; rfl
  · omega
  · omega

theorem pack_unf_eq_false (c : Int) {e : Int} (he : MINE ≤ e) : (pack c e).f.unf = false := by
  obtain ⟨-, hp⟩ | ⟨-, hr, hp⟩ | ⟨-, c', e', hr, -, hlt, -, hp⟩ | ⟨-, hp⟩ := pack_cases c e
  · rw [hp]; rfl
  · rw [hp]; exact packExponent_unf_eq_false hr he
  · rw [hp]; exact packExponent_unf_eq_false hr (by omega)
  · rw [hp]; rfl

theorem neg_unf_eq_false (a : Word) : (neg a).f.unf = false := by
  unfold neg
  split
  · rfl
  · next hn =>
    split
    · rfl
    · split
      · exact pack_unf_eq_false _ (MINE_le_expo (Bool.eq_false_iff.2 hn))
      · rfl

theorem addAligned_unf_eq_false (hw : Word) (hc he lc : Int) {le : Int} (hle : MINE ≤ le) :
    (addAligned hw hc he lc le).f.unf = false := by
  unfold addAligned
  split
  · rfl
  · exact pack_unf_eq_false _ (by omega)

theorem add_unf_eq_false (a b : Word) : (add a b).f.unf = false := by
  by_cases hn : isnan a = true ∨ isnan b = true
  · rw [add_of_isnan hn]; rfl
  obtain ⟨ha, hb⟩ : isnan a = false ∧ isnan b = false := by simpa using hn
  rcases lt_trichotomy (expo a) (expo b) with h | h | h
  · rw [add_of_expo_gt ha hb h]
    exact addAligned_unf_eq_false _ _ _ _ (MINE_le_expo ha)
  · rw [add_of_expo_eq ha hb h]
    split
    · rfl
    · exact pack_unf_eq_false _ (MINE_le_expo ha)
  · rw [add_of_expo_lt ha hb h]
    exact addAligned_unf_eq_false _ _ _ _ (MINE_le_expo hb)

/-! ### SUB -/

theorem sub_of_isnan {a b : Word} (h : isnan a = true ∨ isnan b = true) : sub a b = ⟨NAN, FlagSet.none⟩ := by
  rw [sub, if_pos (by simpa using h)]

theorem sub_of_not_isnan {a b : Word} (ha : isnan a = false) (hb : isnan b = false) :
    sub a b = ⟨(add a (neg b).w).w, (neg b).f.union (add a (neg b).w).f⟩ := by
  rw [sub, if_neg (by simp [ha, hb])]

theorem sub_unf_eq_false (a b : Word) : (sub a b).f.unf = false := by
  unfold sub
  split
  · rfl
  · exact Bool.or_eq_false_iff.2 ⟨neg_unf_eq_false b, add_unf_eq_false a _⟩

/-- A NaN operand of NEG shows as NANF without OVF, so any other flags come from an operand that is not NaN. -/
theorem not_isnan_of_neg_ne {b : Word} (h : neg b ≠ ⟨NAN, FlagSet.none⟩) : isnan b = false :=
  Bool.eq_false_iff.2 fun hb => h (neg_of_isnan hb)

theorem sub_eq_add_of_neg {a b n : Word} (ha : isnan a = false) (hn : isnan n = false)
    (h : neg b = ⟨n, FlagSet.none⟩) : sub a b = add a n := by
  have hb : isnan b = false := not_isnan_of_neg_ne fun hnan => by
    obtain ⟨rfl, -⟩ := Answer.mk.inj (h.symm.trans hnan)
    cases hn
  rw [sub_of_not_isnan ha hb, h]
  simp [FlagSet.union, FlagSet.none]

/-- The overflow of the negation is kept: its word `NAN` makes the addition a NaN without flags of its own (R101). -/
theorem sub_of_neg_overflow {a b : Word} (ha : isnan a = false) (h : neg b = ⟨NAN, FlagSet.overflow⟩) :
    sub a b = ⟨NAN, FlagSet.overflow⟩ := by
  have hb : isnan b = false := not_isnan_of_neg_ne fun hnan => by
    cases (Answer.mk.inj (h.symm.trans hnan)).2
  rw [sub_of_not_isnan ha hb, h, add_of_isnan (.inr rfl)]
  rfl

/-- Settles O37: the ports show the whole answer of NEG, so its two forms give the two forms of R101. -/
theorem subIsAddOfNegation : Obligations.SubIsAddOfNegation := by
  refine ⟨decode_sub, fun a b s => ⟨?nan, ?negated, ?overflow, ?unf⟩⟩
  case nan =>
    intro hn
    rw [exec_sub, sub_of_isnan hn, answerD_NAN]
  case negated =>
    intro n ha h
    obtain ⟨hneg, hn⟩ := answer_of_answerD_eq h
    rw [exec_sub, exec_add, sub_eq_add_of_neg ha hn hneg]
  case overflow =>
    intro ha h
    obtain ⟨hneg, -⟩ := answer_of_answerD_eq h
    rw [exec_sub, sub_of_neg_overflow ha hneg, answerD_overflow]
  case unf =>
    obtain ⟨-, -, hunf⟩ := flagBundle_bits false (sub a b).f.unf (sub a b).f.ovf (isnan (sub a b).w)
    exact ⟨(sub a b).w, wordFlags (sub a b), rfl, hunf.trans (sub_unf_eq_false a b)⟩

end Sys2Proof.Machine
end

section
/-! Proofs of the sign and absolute value part of the derived family (43_derived.md R120, R121): SIGN and ABS. -/

namespace Sys2Proof.Machine

/-! ### SIGN -/

theorem exec_sign (a : Word) (s : State) : exec (.sign a) s = .next (s.offer (placeSigned (signOf a)) 0#4) := rfl

theorem decode_sign (p : Port) (q : BitVec 64) : decode ⟨0x40#8, p, q⟩ = .ok (.sign (operandD p)) := rfl

/-- The coefficient field is the upper part of the word, so they share the sign bit (R25). -/
theorem msb_iff_coef_neg (a : Word) : a.msb = true ↔ coef a < 0 := by
  rw [coef_eq_toInt_sshiftRight, ← BitVec.msb_sshiftRight (x := a) (n := 8), BitVec.msb_eq_toInt, decide_eq_true_iff]

theorem signOf_eq (a : Word) : signOf a = if iszero a = true then 0 else if coef a < 0 then -1 else 1 := by
  simp only [signOf, msb_iff_coef_neg]

/-- Settles O43: the top bit that SIGN tests is the sign of the coefficient. -/
theorem signFollowsTheTopBit : Obligations.SignFollowsTheTopBit := by
  refine ⟨decode_sign, fun a s => ?_⟩
  rw [exec_sign, signOf_eq, placeSigned]

/-! ### ABS -/

theorem exec_abs (a : Word) (s : State) : exec (.abs a) s = answerD (absWord a) s := rfl

theorem decode_abs (p : Port) (q : BitVec 64) : decode ⟨0x41#8, p, q⟩ = .ok (.abs (operandD p)) := rfl

theorem not_isnan_of_iszero {a : Word} (h : iszero a = true) : isnan a = false := by
  obtain ⟨-, he⟩ := (iszero_iff a).1 h
  rwa [Bool.eq_false_iff, ne_eq, isnan_iff]

/-- Only `MINC` leaves the coefficient range by taking the magnitude (R121). -/
theorem abs_coef_in_range {a : Word} (h : coef a ≠ MINC) : inCoefRange |coef a| = true := by
  rcases abs_choice (coef a) with habs | habs
  · rw [habs, inCoefRange_iff]; exact coef_bounds a
  · rw [habs]; exact neg_coef_in_range h

theorem absWord_of_isnan {a : Word} (h : isnan a = true) : absWord a = ⟨NAN, FlagSet.none⟩ := by
  rw [absWord, if_pos h]

theorem absWord_of_not_isnan {a : Word} (hn : isnan a = false) : absWord a = pack |coef a| (expo a) := by
  rw [absWord, hn, if_neg Bool.false_ne_true, Int.natCast_natAbs]

theorem absWord_of_coef_eq_zero {a : Word} (hn : isnan a = false) (h : coef a = 0) :
    absWord a = ⟨ZERO, FlagSet.none⟩ := by
  rw [absWord_of_not_isnan hn, h, abs_zero, pack_zero]

/-- ABS and NEG both pack `-MINC` for the least coefficient (R102, R121). -/
theorem absWord_eq_neg_of_coef_eq_MINC {a : Word} (hn : isnan a = false) (h : coef a = MINC) : absWord a = neg a := by
  rw [absWord_of_not_isnan hn, neg_of_coef_eq_MINC hn h, h, abs_of_neg (by decide)]

theorem absWord_of_coef_ne {a : Word} (hn : isnan a = false) (h0 : coef a ≠ 0) (hmin : coef a ≠ MINC) :
    absWord a = ⟨word |coef a| (expo a), FlagSet.none⟩ := by
  rw [absWord_of_not_isnan hn,
    pack_of_in_range (abs_ne_zero.2 h0) (abs_coef_in_range hmin) (MINE_le_expo hn) (expo_bounds a).2]

/-- The scale `10^expo` is positive, so the magnitude of the number is that of its coefficient. -/
theorem abs_value (a : Word) : |value a| = ((|coef a| : Int) : ℚ) * (10 : ℚ) ^ expo a := by
  have hscale : (0 : ℚ) < (10 : ℚ) ^ expo a := by positivity
  rw [value, abs_mul, abs_of_pos hscale, Int.cast_abs]

/-- Settles O44: a lemma for each exit of `pack` that a magnitude can take; the two exits for `MINC` are
those of NEG. -/
theorem absTakesTheMagnitude : Obligations.AbsTakesTheMagnitude := by
  refine ⟨decode_abs, fun a s => ?_⟩
  obtain ⟨-, -, hneg_minc, hneg_overflow, -⟩ := negNegates.2 a s
  refine ⟨?nan, ?zero, ?minc, ?overflow, ?magnitude⟩
  case nan =>
    intro hn
    rw [exec_abs, absWord_of_isnan hn, answerD_NAN]
  case zero =>
    intro hz
    obtain ⟨hc, -⟩ := (iszero_iff a).1 hz
    rw [exec_abs, absWord_of_coef_eq_zero (not_isnan_of_iszero hz) hc, answerD_ZERO]
  case minc =>
    intro hn hc he
    rw [exec_abs, absWord_eq_neg_of_coef_eq_MINC hn hc, ← exec_neg, hneg_minc hn hc he]
  case overflow =>
    intro hn hc he
    rw [exec_abs, absWord_eq_neg_of_coef_eq_MINC hn hc, ← exec_neg, hneg_overflow hn hc he]
  case magnitude =>
    intro hn h0 hmin
    rw [exec_abs, absWord_of_coef_ne hn h0 hmin, answerD_of_not_isnan (isnan_word_expo _ hn)]
    exact ⟨rfl, by rw [value_word (abs_coef_in_range hmin) (MINE_le_expo hn) (expo_bounds a).2, abs_value]⟩

end Sys2Proof.Machine
end

section
/-! Proofs of the to-integer part of the conversion family (44_conversions.md R156 to R165, R169): TOI and TOU of the
five widths. -/

namespace Sys2Proof.Machine

/-! ### The template and the fields -/

theorem toInt_eq (a : Word) : toInt a = if expo a ≤ 0 then coef a else coef a * 10 ^ (expo a).toNat := rfl

/-- A field as wide as the port needs no extension, so TOI128 and TOU128 give the same bits (R169). -/
theorem placeSignedField_port_width (v : Int) : placeSignedField 128 v = BitVec.ofInt 128 v :=
  BitVec.signExtend_eq _

theorem placeUnsignedField_port_width (v : Int) : placeUnsignedField 128 v = BitVec.ofInt 128 v :=
  BitVec.setWidth_eq _

/-! ### The opcodes -/

theorem decode_toi8 (p : Port) (q : BitVec 64) : decode ⟨0x70#8, p, q⟩ = .ok (.toi8 (operandD p)) := rfl

theorem decode_toi16 (p : Port) (q : BitVec 64) : decode ⟨0x71#8, p, q⟩ = .ok (.toi16 (operandD p)) := rfl

theorem decode_toi32 (p : Port) (q : BitVec 64) : decode ⟨0x72#8, p, q⟩ = .ok (.toi32 (operandD p)) := rfl

theorem decode_toi64 (p : Port) (q : BitVec 64) : decode ⟨0x73#8, p, q⟩ = .ok (.toi64 (operandD p)) := rfl

theorem decode_toi128 (p : Port) (q : BitVec 64) : decode ⟨0x74#8, p, q⟩ = .ok (.toi128 (operandD p)) := rfl

theorem decode_tou8 (p : Port) (q : BitVec 64) : decode ⟨0x78#8, p, q⟩ = .ok (.tou8 (operandD p)) := rfl

theorem decode_tou16 (p : Port) (q : BitVec 64) : decode ⟨0x79#8, p, q⟩ = .ok (.tou16 (operandD p)) := rfl

theorem decode_tou32 (p : Port) (q : BitVec 64) : decode ⟨0x7A#8, p, q⟩ = .ok (.tou32 (operandD p)) := rfl

theorem decode_tou64 (p : Port) (q : BitVec 64) : decode ⟨0x7B#8, p, q⟩ = .ok (.tou64 (operandD p)) := rfl

theorem decode_tou128 (p : Port) (q : BitVec 64) : decode ⟨0x7C#8, p, q⟩ = .ok (.tou128 (operandD p)) := rfl

/-! ### The meanings: `toInt` of the word, through a field of the width, with no test and no flag -/

theorem exec_toi8 (a : Word) (s : State) :
    exec (.toi8 a) s = .next (s.offer (placeSignedField 8 (toInt a)) 0#4) := rfl

theorem exec_toi16 (a : Word) (s : State) :
    exec (.toi16 a) s = .next (s.offer (placeSignedField 16 (toInt a)) 0#4) := rfl

theorem exec_toi32 (a : Word) (s : State) :
    exec (.toi32 a) s = .next (s.offer (placeSignedField 32 (toInt a)) 0#4) := rfl

theorem exec_toi64 (a : Word) (s : State) :
    exec (.toi64 a) s = .next (s.offer (placeSignedField 64 (toInt a)) 0#4) := rfl

theorem exec_toi128 (a : Word) (s : State) :
    exec (.toi128 a) s = .next (s.offer (placeSignedField 128 (toInt a)) 0#4) := rfl

theorem exec_tou8 (a : Word) (s : State) :
    exec (.tou8 a) s = .next (s.offer (placeUnsignedField 8 (toInt a)) 0#4) := rfl

theorem exec_tou16 (a : Word) (s : State) :
    exec (.tou16 a) s = .next (s.offer (placeUnsignedField 16 (toInt a)) 0#4) := rfl

theorem exec_tou32 (a : Word) (s : State) :
    exec (.tou32 a) s = .next (s.offer (placeUnsignedField 32 (toInt a)) 0#4) := rfl

theorem exec_tou64 (a : Word) (s : State) :
    exec (.tou64 a) s = .next (s.offer (placeUnsignedField 64 (toInt a)) 0#4) := rfl

theorem exec_tou128 (a : Word) (s : State) :
    exec (.tou128 a) s = .next (s.offer (placeUnsignedField 128 (toInt a)) 0#4) := rfl

/-- Settles O52: `v` is the template's value, each operation places it through the field of its width, and at 128 bits
the extension is the identity. -/
theorem toIntegerWraps : Obligations.ToIntegerWraps := by
  refine ⟨decode_toi8, decode_toi16, decode_toi32, decode_toi64, decode_toi128,
    decode_tou8, decode_tou16, decode_tou32, decode_tou64, decode_tou128, fun a s v hv => ?_⟩
  obtain rfl : v = toInt a := hv.trans (toInt_eq a).symm
  refine ⟨exec_toi8 a s, exec_toi16 a s, exec_toi32 a s, exec_toi64 a s, ?toi128,
    exec_tou8 a s, exec_tou16 a s, exec_tou32 a s, exec_tou64 a s, ?tou128⟩
  case toi128 => rw [exec_toi128, placeSignedField_port_width]
  case tou128 => rw [exec_tou128, placeUnsignedField_port_width]

end Sys2Proof.Machine
end

section
/-! Proofs of the request family (30_encoding.md R50 to R59): operand placement read back, the opcode map read both
ways, and the operand bits that a format ignores. -/

namespace Sys2Proof.Machine

/-! ### Operands placed on a port and read back -/

theorem extractLsb'_setWidth_of_le {n m : Nat} (x : BitVec n) (h : n ≤ m) : (x.setWidth m).extractLsb' 0 n = x := by
  rw [← BitVec.setWidth_eq_extractLsb' h, BitVec.setWidth_setWidth_of_le _ h, BitVec.setWidth_eq]

@[simp] theorem operandD_setWidth (a : Word) : operandD (a.setWidth 128) = a :=
  extractLsb'_setWidth_of_le a (by decide)

@[simp] theorem operandRa_setWidth (c : BitVec 56) : operandRa (c.setWidth 128) = c :=
  extractLsb'_setWidth_of_le c (by decide)

@[simp] theorem operandRb_setWidth (e : BitVec 8) : operandRb (e.setWidth 64) = e :=
  extractLsb'_setWidth_of_le e (by decide)

theorem operandF_setWidth {n : Nat} (x : BitVec n) (h : n ≤ 128) : operandF n (x.setWidth 128) = x :=
  extractLsb'_setWidth_of_le x h

theorem signedFits_iff {n : Nat} {v : Int} :
    signedFits n v = true ↔ -(2 : Int) ^ (n - 1) ≤ v ∧ v < (2 : Int) ^ (n - 1) := by simp [signedFits]

theorem unsignedFits_iff {n : Nat} {v : Int} : unsignedFits n v = true ↔ 0 ≤ v ∧ v < (2 : Int) ^ n := by
  simp [unsignedFits]

theorem toInt_ofInt_of_signedFits {n : Nat} {v : Int} (hn : 0 < n) (h : signedFits n v = true) :
    (BitVec.ofInt n v).toInt = v := by
  obtain ⟨h1, h2⟩ := signedFits_iff.1 h
  exact BitVec.toInt_ofInt_eq_self hn h1 h2

theorem toNat_ofInt_of_unsignedFits {n : Nat} {v : Int} (h : unsignedFits n v = true) :
    ((BitVec.ofInt n v).toNat : Int) = v := by
  obtain ⟨h1, h2⟩ := unsignedFits_iff.1 h
  have hcast : ((2 ^ n : Nat) : Int) = 2 ^ n := by push_cast; rfl
  rw [BitVec.toNat_ofInt, hcast, Int.emod_eq_of_lt h1 h2, Int.toNat_of_nonneg h1]

theorem operandW_ofInt {c : Int} (h : signedFits 128 c = true) : operandW (BitVec.ofInt 128 c) = c :=
  toInt_ofInt_of_signedFits (by decide) h

theorem operandX_ofInt {e : Int} (h : signedFits 64 e = true) : operandX (BitVec.ofInt 64 e) = e :=
  toInt_ofInt_of_signedFits (by decide) h

theorem operandSigned_ofInt {n : Nat} {v : Int} (h0 : 0 < n) (hn : n ≤ 128) (h : signedFits n v = true) :
    operandSigned n ((BitVec.ofInt n v).setWidth 128) = v := by
  rw [operandSigned, extractLsb'_setWidth_of_le _ hn, toInt_ofInt_of_signedFits h0 h]

theorem operandUnsigned_ofInt {n : Nat} {v : Int} (hn : n ≤ 128) (h : unsignedFits n v = true) :
    operandUnsigned n ((BitVec.ofInt n v).setWidth 128) = v := by
  rw [operandUnsigned, extractLsb'_setWidth_of_le _ hn, toNat_ofInt_of_unsignedFits h]

/-! ### What is read from a port fits -/

theorem signedFits_toInt {n : Nat} (x : BitVec n) : signedFits n x.toInt = true := by
  refine signedFits_iff.2 ⟨?_, ?_⟩
  · simpa using BitVec.le_toInt x
  · simpa using BitVec.toInt_lt (x := x)

theorem unsignedFits_toNat {n : Nat} (x : BitVec n) : unsignedFits n (x.toNat : Int) = true :=
  unsignedFits_iff.2 ⟨by omega, by exact_mod_cast x.isLt⟩

/-! ### Decoding the request of an operation -/

/-- Settles O1: each constructor's operands are read back from where `encode` places them. -/
theorem decodeInvertsEncode : Obligations.DecodeInvertsEncode := by
  intro i hwf
  cases i with
  | pack c e =>
    obtain ⟨hc, he⟩ : signedFits 128 c = true ∧ signedFits 64 e = true := Bool.and_eq_true_iff.1 hwf
    exact congrArg Except.ok (congrArg₂ Instr.pack (operandW_ofInt hc) (operandX_ofInt he))
  | raw c e => exact congrArg Except.ok (congrArg₂ Instr.raw (operandRa_setWidth c) (operandRb_setWidth e))
  | round a t => exact congrArg Except.ok (congrArg₂ Instr.round (operandD_setWidth a) (operandX_ofInt hwf))
  | eq a b | cmp a b | add a b | sub a b | mul a b | div a b =>
    exact congrArg (fun w => Except.ok ((_ : Word → Word → Instr) w b)) (operandD_setWidth a)
  | fromf32 x | fromf64 x => exact congrArg (fun y => Except.ok ((_ : BitVec _ → Instr) y)) (operandF_setWidth x (by decide))
  | fromi8 v | fromi16 v | fromi32 v | fromi64 v | fromi128 v =>
    exact congrArg (fun y => Except.ok ((_ : Int → Instr) y)) (operandSigned_ofInt (by decide) (by decide) hwf)
  | fromu8 v | fromu16 v | fromu32 v | fromu64 v | fromu128 v =>
    exact congrArg (fun y => Except.ok ((_ : Int → Instr) y)) (operandUnsigned_ofInt (by decide) hwf)
  | coef a | expo a | isnan a | iszero a | neg a | sign a | abs a | isint a | floor a | ceil a | tof32 a | tof64 a
  | toi8 a | toi16 a | toi32 a | toi64 a | toi128 a | tou8 a | tou16 a | tou32 a | tou64 a | tou128 a =>
    exact congrArg (fun w => Except.ok ((_ : Word → Instr) w)) (operandD_setWidth a)

/-! ### The opcode map -/

/-- An operation is decoded, or the error names the opcode (R58). -/
theorem decode_ok_or_unassigned (q : Request) :
    (∃ i, decode q = .ok i) ∨ decode q = .error (.unassignedOpcode q.op) := by
  unfold decode
  split
  case h_44 => exact .inr rfl
  all_goals exact .inl ⟨_, rfl⟩

theorem decode_ok_of_assigned {q : Request} (h : q.op ∈ assignedOpcodes) : ∃ i, decode q = .ok i := by
  obtain ⟨op, a, b⟩ := q
  fin_cases h <;> exact ⟨_, rfl⟩

/-- The operation keeps the opcode of its request, whichever opcode that is (R55). -/
theorem encode_op_of_decode {q : Request} {i : Instr} (h : decode q = .ok i) : (encode i).op = q.op := by
  unfold decode at h
  split at h
  case h_44 => cases h
  all_goals
    next hop =>
    cases h
    exact BitVec.eq_of_toNat_eq hop.symm

theorem encode_op_assigned (i : Instr) : (encode i).op ∈ assignedOpcodes := by
  cases i <;> exact List.contains_iff_mem.1 rfl

theorem assigned_of_decode {q : Request} {i : Instr} (h : decode q = .ok i) : q.op ∈ assignedOpcodes :=
  encode_op_of_decode h ▸ encode_op_assigned i

/-- An integer operand fits the field that it was read from (R54). -/
theorem wellFormed_of_decode {q : Request} {i : Instr} (h : decode q = .ok i) : i.wellFormed = true := by
  unfold decode at h
  split at h
  case h_44 => cases h
  all_goals
    cases h
    simp only [Instr.wellFormed, operandW, operandX, operandSigned, operandUnsigned, signedFits_toInt,
      unsignedFits_toNat, Bool.and_self]

theorem decode_error_of_not_assigned {q : Request} (h : q.op ∉ assignedOpcodes) :
    decode q = .error (.unassignedOpcode q.op) :=
  (decode_ok_or_unassigned q).resolve_left fun ⟨_, hi⟩ => h (assigned_of_decode hi)

/-- Settles O2: the decoder's two facts, and O1 for the operation that it gives. -/
theorem decodedOperationIsWellFormed : Obligations.DecodedOperationIsWellFormed := fun _ i h =>
  ⟨wellFormed_of_decode h, encode_op_of_decode h, decodeInvertsEncode i (wellFormed_of_decode h)⟩

/-- Settles O3: an assigned opcode has its row in `decode`, and an operation has an assigned opcode. -/
theorem onlyAssignedOpcodesDecode : Obligations.OnlyAssignedOpcodesDecode := fun _ =>
  ⟨⟨fun ⟨_, hi⟩ => assigned_of_decode hi, decode_ok_of_assigned⟩, decode_error_of_not_assigned⟩

/-! ### Ignored operand bits -/

theorem EXEC_congr {q q' : Request} (h : decode q = decode q') : EXEC q = EXEC q' := by
  rw [EXEC, h]; rfl

theorem extractLsb'_zero_congr {w n : Nat} {x y : BitVec w} (h : x.toNat % 2 ^ n = y.toNat % 2 ^ n) :
    x.extractLsb' 0 n = y.extractLsb' 0 n :=
  BitVec.eq_of_toNat_eq (by simpa [BitVec.extractLsb'_toNat] using h)

theorem eq_of_extractLsb'_width {w : Nat} {x y : BitVec w} (h : x.extractLsb' 0 w = y.extractLsb' 0 w) : x = y := by
  simpa [← BitVec.setWidth_eq_extractLsb' le_rfl] using h

/-- The assigned opcodes that read a word and all of `req_b`: ROUND and the operations on two words (R54). -/
def readsWordAndB : List (BitVec 8) := [0x45#8, 0x20#8, 0x21#8, 0x30#8, 0x31#8, 0x33#8, 0x34#8]

/-- The assigned opcodes with one operand: a word, a pattern, or an integer of the opcode's width (R54). -/
def readsWord : List (BitVec 8) :=
  [0x12#8, 0x13#8, 0x14#8, 0x15#8, 0x32#8, 0x40#8, 0x41#8, 0x42#8, 0x43#8, 0x44#8, 0x50#8, 0x51#8] ++
  [0x70#8, 0x71#8, 0x72#8, 0x73#8, 0x74#8, 0x78#8, 0x79#8, 0x7A#8, 0x7B#8, 0x7C#8, 0x52#8, 0x53#8]

def readsSigned : List (BitVec 8) := [0x60#8, 0x61#8, 0x62#8, 0x63#8, 0x64#8]

def readsUnsigned : List (BitVec 8) := [0x68#8, 0x69#8, 0x6A#8, 0x6B#8, 0x6C#8]

theorem assigned_by_format : ∀ op ∈ assignedOpcodes,
    op = 0x10#8 ∨ op = 0x11#8 ∨ op ∈ readsWordAndB ∨ op ∈ readsWord ∨ op ∈ readsSigned ∨ op ∈ readsUnsigned := by
  decide

/-- The operation depends on the operand bits of the opcode's format alone (R54). -/
theorem decode_congr_used_bits {op : BitVec 8} {a a' : Port} {b b' : BitVec 64} (hop : op ∈ assignedOpcodes)
    (ha : a.extractLsb' 0 (usedBitsA op) = a'.extractLsb' 0 (usedBitsA op))
    (hb : b.extractLsb' 0 (usedBitsB op) = b'.extractLsb' 0 (usedBitsB op)) :
    decode ⟨op, a, b⟩ = decode ⟨op, a', b'⟩ := by
  rcases assigned_by_format op hop with rfl | rfl | h | h | h | h
  · rw [eq_of_extractLsb'_width ha, eq_of_extractLsb'_width hb]
  · exact congrArg Except.ok (congrArg₂ Instr.raw ha hb)
  · fin_cases h <;> rw [eq_of_extractLsb'_width hb] <;> exact congrArg Except.ok (congrArg₂ _ ha rfl)
  · fin_cases h <;> exact congrArg Except.ok (congrArg _ ha)
  · fin_cases h <;> exact congrArg Except.ok (congrArg _ (congrArg BitVec.toInt ha))
  · fin_cases h <;> exact congrArg Except.ok (congrArg _ (congrArg (fun x => ((BitVec.toNat x : Nat) : Int)) ha))

/-- Settles O4: the operands agree on the bits that the format reads, so both requests name one operation. -/
theorem ignoredOperandBitsHaveNoEffect : Obligations.IgnoredOperandBitsHaveNoEffect :=
  fun _ _ _ _ _ hop ha hb =>
    EXEC_congr (decode_congr_used_bits hop (extractLsb'_zero_congr ha) (extractLsb'_zero_congr hb))

/-! ### Written-out bundles -/

/-- Settles O5, by running the decoder on the five words. -/
theorem writtenBundlesDecode : Obligations.WrittenBundlesDecode := by
  unfold Obligations.WrittenBundlesDecode
  decide +kernel

end Sys2Proof.Machine
end

section
/-! Proofs about the step, the ports and the queue (10_state.md R33 to R36, 20_memory.md R46, 30_encoding.md R53, R58,
R61, 70_reset_and_hazards.md R190 to R196). -/

namespace Sys2Proof.Machine

/-! ### What an operation offers -/

/-- The result of an operation as a function of the operation alone (R53): a DEC64 answer with its flag set, or a port
value without flags. `exec_eq_offer` ties it to `exec`. -/
def resultOf (i : Instr) : Answer ⊕ Port :=
  match i with
  | .pack c e => .inl (pack c e)
  | .raw c e => .inl ⟨c ++ e, FlagSet.none⟩
  | .coef a => .inr (placeSigned (coef a))
  | .expo a => .inr (placeSigned (expo a))
  | .isnan a => .inr (placeTruth (isnan a))
  | .iszero a => .inr (placeTruth (iszero a))
  | .eq a b => .inr (placeTruth (eqWords a b))
  | .cmp a b => .inr (placeOrdering (cmpWords a b))
  | .add a b => .inl (add a b)
  | .sub a b => .inl (sub a b)
  | .neg a => .inl (neg a)
  | .mul a b => .inl (mul a b)
  | .div a b => .inl (div a b)
  | .sign a => .inr (placeSigned (signOf a))
  | .abs a => .inl (absWord a)
  | .isint a => .inr (placeTruth (isInteger a))
  | .floor a => .inl (floorWord a)
  | .ceil a => .inl (ceilWord a)
  | .round a t => .inl (roundWord a t)
  | .tof32 a => .inr (placeF (BitVec.ofNat 32 (toFloat binary32 pow10_32 a)))
  | .tof64 a => .inr (placeF (BitVec.ofNat 64 (toFloat binary64 pow10_64 a)))
  | .fromf32 x => .inl (fromFloat binary32 x.toNat)
  | .fromf64 x => .inl (fromFloat binary64 x.toNat)
  | .fromi8 v | .fromi16 v | .fromi32 v | .fromi64 v | .fromi128 v => .inl (fromInt v)
  | .fromu8 v | .fromu16 v | .fromu32 v | .fromu64 v | .fromu128 v => .inl (fromInt v)
  | .toi8 a => .inr (placeSignedField 8 (toInt a))
  | .toi16 a => .inr (placeSignedField 16 (toInt a))
  | .toi32 a => .inr (placeSignedField 32 (toInt a))
  | .toi64 a => .inr (placeSignedField 64 (toInt a))
  | .toi128 a => .inr (placeSignedField 128 (toInt a))
  | .tou8 a => .inr (placeUnsignedField 8 (toInt a))
  | .tou16 a => .inr (placeUnsignedField 16 (toInt a))
  | .tou32 a => .inr (placeUnsignedField 32 (toInt a))
  | .tou64 a => .inr (placeUnsignedField 64 (toInt a))
  | .tou128 a => .inr (placeUnsignedField 128 (toInt a))

/-- The bundle that a result puts on the ports (R52, R54). -/
def bundleOf (x : Answer ⊕ Port) : Response :=
  match x with
  | .inl p => ⟨placeD p.w, wordFlags p⟩
  | .inr r => ⟨r, plainFlags⟩

/-- Every operation offers the bundle of its result, and does nothing else (R53). -/
theorem exec_eq_offer (i : Instr) (s : State) :
    exec i s = .next (s.offer (bundleOf (resultOf i)).r (bundleOf (resultOf i)).flags) := by
  cases i <;> rfl

theorem exec_next {i : Instr} {s t : State} (h : exec i s = .next t) :
    t = s.offer (bundleOf (resultOf i)).r (bundleOf (resultOf i)).flags := by
  rw [exec_eq_offer] at h
  exact (Host.Outcome.next.inj h).symm

theorem EXEC_of_decode {q : Request} {i : Instr} (h : decode q = .ok i) : EXEC q = bundleOf (resultOf i) := by
  rw [EXEC, h]
  exact congrArg responseOf (exec_eq_offer i State.reset)

theorem EXEC_of_not_assigned {q : Request} (h : q.op ∉ assignedOpcodes) : EXEC q = ⟨0x80#128, 8#4⟩ := by
  rw [EXEC, decode_error_of_not_assigned h]; rfl

/-- Settles O9: `exec_eq_offer`, and for a well-formed operation its request decodes to it. -/
theorem execOffersExecOfItsRequest : Obligations.ExecOffersExecOfItsRequest := by
  refine fun i => ⟨⟨_, _, exec_eq_offer i⟩, fun hwf s => ?_⟩
  rw [EXEC_of_decode (decodeInvertsEncode i hwf), exec_eq_offer]

/-- Settles O10: the frame of `State.offer`. -/
theorem execChangesOnlyTheResponsePorts : Obligations.ExecChangesOnlyTheResponsePorts := by
  intro i s t h
  rw [exec_next h]
  exact ⟨rfl, rfl, rfl, rfl, rfl, rfl, rfl, rfl, rfl⟩

/-! ### One step -/

/-- A step that runs a request offers `EXEC` of it, whatever its opcode (R53, R58). -/
theorem step_of_toRun {s : State} {q : Request} (h : s.toRun = some q) :
    step s = .next (s.offer (EXEC q).r (EXEC q).flags) := by
  rw [step, h]
  rcases decode_ok_or_unassigned q with ⟨i, hi⟩ | he
  · simp only [hi, EXEC_of_decode hi, exec_eq_offer]
  · simp only [EXEC, he]; rfl

theorem step_of_toRun_none {s : State} (h : s.toRun = none) : step s = .next s.clockEdge := by
  rw [step, h]

theorem toRun_of_pending {s : State} {q : Request} {rest : List Request} (hv : s.rspValid = false) (hw : s.wait = 0)
    (hp : s.pending = q :: rest) : s.toRun = some q :=
  (toRun_eq_some s).2 ⟨hv, hw, by rw [hp]; rfl⟩

theorem toRun_eq_none {s : State} (h : s.rspValid = true ∨ s.wait ≠ 0 ∨ s.pending = []) : s.toRun = none := by
  rw [Option.eq_none_iff_forall_ne_some]
  intro q hq
  obtain ⟨hv, hw, hp⟩ := (toRun_eq_some s).1 hq
  rcases h with h | h | h
  · rw [h] at hv; cases hv
  · exact h hw
  · rw [h] at hp; cases hp

theorem clockEdge_of_rst {s : State} (h : s.sampled.rst = true) : s.clockEdge = s.resetEdge := if_pos h

theorem clockEdge_of_not_rst {s : State} (h : s.sampled.rst = false) : s.clockEdge = s.portEdge := by
  rw [State.clockEdge, h]; rfl

theorem delivers_iff {s : State} : s.delivers = true ↔ s.rspValid = true ∧ s.sampled.rspReady = true := by
  rw [State.delivers, Bool.and_eq_true]

theorem accepts_iff {s : State} : s.accepts = true ↔ s.sampled.reqValid = true ∧ s.reqReady = true := by
  rw [State.accepts, Bool.and_eq_true]

/-- Settles O6: the request at the head is the one to run. -/
theorem stepRunsHeadOfPending : Obligations.StepRunsHeadOfPending := by
  intro s q rest i hv hw hp hi
  simp only [step, toRun_of_pending hv hw hp, hi]

/-- Settles O7: the head is run, and `EXEC` of it is the answer of R58. -/
theorem unassignedOpcodeIsAnswered : Obligations.UnassignedOpcodeIsAnswered := by
  intro s q rest hv hw hp hop
  have hexec := EXEC_of_not_assigned hop
  exact ⟨by rw [step_of_toRun (toRun_of_pending hv hw hp), hexec], hexec⟩

/-- Settles O8: a step runs a request or passes an edge. -/
theorem stepAlwaysCompletes : Obligations.StepAlwaysCompletes := by
  intro s
  cases h : s.toRun with
  | some q => exact ⟨_, step_of_toRun h⟩
  | none => exact ⟨_, step_of_toRun_none h⟩

/-- Settles O13: the fields of `State.portEdge`, the two handshakes written out. -/
theorem edgeMovesRequestsAndResponses : Obligations.EdgeMovesRequestsAndResponses := by
  intro s hrun hrst
  refine ⟨s.portEdge, by rw [step_of_toRun_none hrun, clockEdge_of_not_rst hrst], ?_⟩
  simp only [← delivers_iff, ← accepts_iff]
  exact ⟨rfl, rfl, rfl, rfl⟩

/-- Settles O14: without `rsp_ready` nothing is delivered, and the edge keeps what is offered. -/
theorem offeredResponseIsHeld : Obligations.OfferedResponseIsHeld := by
  intro s hv hrst hready
  have hd : s.delivers = false := by rw [State.delivers, hready, Bool.and_false]
  refine ⟨s.portEdge, by rw [step_of_toRun_none (toRun_eq_none (.inl hv)), clockEdge_of_not_rst hrst], ?_⟩
  simp [hv, hd]

/-- Settles O15: the fields of `State.resetEdge`. -/
theorem resetEdgeDropsEverything : Obligations.ResetEdgeDropsEverything := by
  intro s hrun hrst
  refine ⟨s.resetEdge, by rw [step_of_toRun_none hrun, clockEdge_of_rst hrst], ?_⟩
  exact ⟨rfl, rfl, rfl, rfl, rfl, rfl⟩

/-! ### The invariant of the queue -/

/-- The three clauses of `State.Sound` on the records, in one form: `done` are the requests answered so far. -/
theorem sound_of_done {s : State} (done : List Request) (hacc : s.accepted = done ++ s.pending)
    (hdel : s.delivered = done.map EXEC)
    (hoff : s.rspValid = true → ∃ q, s.pending.head? = some q ∧ (⟨s.rspR, s.rspFlags⟩ : Response) = EXEC q)
    (hcap : s.pending.length ≤ Config.capacity) (hroom : s.reqReady = true → s.pending.length < Config.capacity) :
    s.Sound where
  answered := by simp [hacc, hdel]
  queue := by simp [hacc, hdel]
  responses := by simp [hacc, hdel]
  offered := hoff
  bounded := hcap
  room := hroom

theorem State.Sound.exists_done {s : State} (h : s.Sound) :
    ∃ done, s.accepted = done ++ s.pending ∧ s.delivered = done.map EXEC :=
  ⟨s.accepted.take s.delivered.length, by rw [h.queue, List.take_append_drop], h.responses⟩

theorem capacity_pos : 0 < Config.capacity := Nat.succ_pos _

/-- A state without a request, a response or a record is sound. -/
theorem sound_of_empty {s : State} (hp : s.pending = []) (hv : s.rspValid = false) (ha : s.accepted = [])
    (hd : s.delivered = []) : s.Sound :=
  sound_of_done [] (by rw [hp, ha]; rfl) (by rw [hd]; rfl) (fun h => by rw [hv] at h; cases h)
    (by rw [hp]; exact capacity_pos.le) (fun _ => by rw [hp]; exact capacity_pos)

/-- Offering `EXEC` of the head of `pending` keeps the invariant. -/
theorem offer_sound {s : State} (h : s.Sound) {q : Request} (hq : s.pending.head? = some q) :
    (s.offer (EXEC q).r (EXEC q).flags).Sound := by
  obtain ⟨done, hacc, hdel⟩ := h.exists_done
  exact sound_of_done done hacc hdel (fun _ => ⟨q, hq, rfl⟩) h.bounded h.room

theorem pendingNext_length_le {s : State} (h : s.Sound) : s.pendingNext.length ≤ Config.capacity := by
  have hkept : (if s.delivers then s.pending.tail else s.pending).length ≤ s.pending.length := by
    split
    · simp
    · exact le_rfl
  have hbounded := h.bounded
  rw [State.pendingNext, List.length_append]
  cases ha : s.accepts with
  | false => simpa using hkept.trans hbounded
  | true =>
    have hroom := h.room (accepts_iff.1 ha).2
    simp only [if_true, List.length_singleton]
    omega

/-- After an edge the answered requests are those from before, with the head when its response is delivered. -/
theorem portEdge_exists_done {s : State} (h : s.Sound) :
    ∃ done, s.portEdge.accepted = done ++ s.portEdge.pending ∧ s.portEdge.delivered = done.map EXEC := by
  obtain ⟨done, hacc, hdel⟩ := h.exists_done
  cases hd : s.delivers with
  | false => exact ⟨done, by simp [hacc, State.pendingNext, hd], by simp [hdel, hd]⟩
  | true =>
    obtain ⟨q, hq, hresp⟩ := h.offered (delivers_iff.1 hd).1
    obtain ⟨rest, hp⟩ := List.head?_eq_some_iff.1 hq
    exact ⟨done ++ [q], by simp [hacc, State.pendingNext, hd, hp], by simp [hdel, hd, hresp]⟩

theorem portEdge_sound {s : State} (h : s.Sound) : s.portEdge.Sound := by
  obtain ⟨done, hacc, hdel⟩ := portEdge_exists_done h
  refine sound_of_done done hacc hdel (fun hv => ?_) (pendingNext_length_le h) (fun hr => ?_)
  · obtain ⟨hvalid, hd⟩ : s.rspValid = true ∧ s.delivers = false := by simpa using hv
    obtain ⟨q, hq, hresp⟩ := h.offered hvalid
    refine ⟨q, ?_, by simpa [hvalid, hd] using hresp⟩
    simp [State.pendingNext, hd, hq]
  · exact (of_decide_eq_true hr).2

theorem clockEdge_sound {s : State} (h : s.Sound) : s.clockEdge.Sound := by
  rcases clockEdge_cases s with ⟨-, he⟩ | ⟨-, he⟩ <;> rw [he]
  · exact sound_of_empty rfl rfl rfl rfl
  · exact portEdge_sound h

/-- Settles O11: a step offers `EXEC` of the head, or is an edge. -/
theorem everyStepKeepsSound : Obligations.EveryStepKeepsSound := by
  intro s t hs hstep
  cases hrun : s.toRun with
  | some q =>
    obtain ⟨-, -, hq⟩ := (toRun_eq_some s).1 hrun
    rw [step_of_toRun hrun] at hstep
    exact Host.Outcome.next.inj hstep ▸ offer_sound hs hq
  | none =>
    rw [step_of_toRun_none hrun] at hstep
    exact Host.Outcome.next.inj hstep ▸ clockEdge_sound hs

/-- Settles O12: the state after reset is empty. -/
theorem resetLeavesAnEmptyQueue : Obligations.ResetLeavesAnEmptyQueue :=
  ⟨rfl, rfl, rfl, sound_of_empty rfl rfl rfl rfl⟩

/-! ### Progress -/

theorem run_zero (s : State) : Host.Core.run Sys2Proof.core 0 s = .next s := rfl

theorem run_succ {s t : State} (k : Nat) (h : step s = .next t) :
    Host.Core.run Sys2Proof.core (k + 1) s = Host.Core.run Sys2Proof.core k t := by
  have hcore : Sys2Proof.core.step s = .next t := h
  simp only [Host.Core.run, hcore]

theorem sampled_rst_of_noReset {s : State} (h : s.noReset) : s.sampled.rst = false := by
  rw [State.sampled]
  cases hi : s.inputs with
  | nil => rfl
  | cons x xs => exact h x (hi ▸ List.mem_cons_self)

theorem portEdge_noReset {s : State} (h : s.noReset) : s.portEdge.noReset :=
  fun x hx => h x (List.mem_of_mem_tail hx)

/-- Without a reset to come, a step that runs no request serves the ports. -/
theorem step_eq_portEdge {s : State} (hrun : s.toRun = none) (h : s.noReset) : step s = .next s.portEdge := by
  rw [step_of_toRun_none hrun, clockEdge_of_not_rst (sampled_rst_of_noReset h)]

theorem pendingNext_of_idle {s : State} (hp : s.pending = []) (hr : s.reqReady = false) : s.pendingNext = [] := by
  have ha : s.accepts = false := by rw [State.accepts, hr, Bool.and_false]
  simp [State.pendingNext, hp, ha]

/-- Settles O16, by induction on `hold`: an edge takes one from it, and at 0 raises `req_ready`. -/
theorem readyRisesWithinHold : Obligations.ReadyRisesWithinHold := by
  intro s
  induction hh : s.hold generalizing s with
  | zero =>
    intro hp hv hn
    cases hr : s.reqReady with
    | true => exact ⟨0, s, Nat.zero_le _, run_zero s, hr⟩
    | false =>
      have hstep := step_eq_portEdge (toRun_eq_none (.inr (.inr hp))) hn
      refine ⟨1, s.portEdge, le_rfl, by rw [run_succ 0 hstep, run_zero], ?_⟩
      simp [pendingNext_of_idle hp hr, State.holdNext, hh, hr, capacity_pos]
  | succ n ih =>
    intro hp hv hn
    cases hr : s.reqReady with
    | true => exact ⟨0, s, Nat.zero_le _, run_zero s, hr⟩
    | false =>
      have hstep := step_eq_portEdge (toRun_eq_none (.inr (.inr hp))) hn
      have hhold : s.portEdge.hold = n := by simp [State.holdNext, hh]
      obtain ⟨k, t, hk, hrun, ht⟩ :=
        ih s.portEdge hhold (pendingNext_of_idle hp hr) (by simp [hv]) (portEdge_noReset hn)
      exact ⟨k + 1, t, by omega, by rw [run_succ k hstep, hrun], ht⟩

/-- Settles O17, by induction on `wait`: an edge keeps the head and takes one from `wait`, and at 0 the head is run. -/
theorem pendingRequestIsAnswered : Obligations.PendingRequestIsAnswered := by
  intro s
  induction hw : s.wait generalizing s with
  | zero =>
    intro q rest hp hv _
    have hstep := step_of_toRun (toRun_of_pending hv hw hp)
    exact ⟨s.offer (EXEC q).r (EXEC q).flags, by rw [run_succ 0 hstep, run_zero], rfl,
      by rw [offer_pending, hp]; rfl, rfl⟩
  | succ n ih =>
    intro q rest hp hv hn
    have hd : s.delivers = false := by rw [State.delivers, hv, Bool.false_and]
    have hstep := step_eq_portEdge (toRun_eq_none (.inr (.inl (by omega)))) hn
    have hwait : s.portEdge.wait = n := by simp [State.waitNext, hd, hp, hw]
    have hpending : s.portEdge.pending = q :: (rest ++ if s.accepts then [s.sampled.req] else []) := by
      simp [State.pendingNext, hd, hp]
    obtain ⟨t, hrun, ht⟩ := ih s.portEdge hwait q _ hpending (by simp [hv]) (portEdge_noReset hn)
    exact ⟨t, by rw [run_succ (n + 1) hstep, hrun], ht⟩

end Sys2Proof.Machine
end

section
/-! Proofs of the closed forms of PACK (40_packing.md R70): the lift, its rounding, and the exponent steps. -/

namespace Sys2Proof.Machine

/-! ### Rounding half away from zero on the last digit -/

/-- `c / 10^j` rounded half away from zero on the last of the `j` discarded digits, as R70 and R125 round it. -/
def roundQuotient (c : Int) (j : Nat) : Int := rha (tdiv c (10 ^ j)) (trem (tdiv c (10 ^ (j - 1))) 10)

theorem rha_neg (q d : Int) : rha (-q) (-d) = -rha q d := by
  unfold rha
  split_ifs <;> omega

theorem tdiv_neg (x y : Int) : tdiv (-x) y = -tdiv x y := Int.neg_tdiv x y

theorem trem_neg (x y : Int) : trem (-x) y = -trem x y := by
  rw [trem, trem, tdiv_neg]; ring

theorem roundQuotient_neg (c : Int) (j : Nat) : roundQuotient (-c) j = -roundQuotient c j := by
  simp only [roundQuotient, tdiv_neg, trem_neg, rha_neg]

theorem tdiv_natCast_ten_pow (n j : Nat) : tdiv (n : Int) (10 ^ j) = ((n / 10 ^ j : Nat) : Int) := by
  rw [show (10 : Int) ^ j = ((10 ^ j : Nat) : Int) by push_cast; rfl]; rfl

theorem trem_natCast_ten (n : Nat) : trem (n : Int) 10 = ((n % 10 : Nat) : Int) := by
  have htdiv : tdiv (n : Int) 10 = ((n / 10 : Nat) : Int) := rfl
  rw [trem, htdiv]
  omega

/-- A natural number cut at `j ≥ 1` digits: the quotient, the last discarded digit, and what is below that digit. -/
theorem digits_cut (n j : Nat) (hj : 1 ≤ j) :
    n = (10 * (n / 10 ^ j) + n / 10 ^ (j - 1) % 10) * 10 ^ (j - 1) + n % 10 ^ (j - 1) := by
  obtain ⟨k, rfl⟩ : ∃ k, j = k + 1 := ⟨j - 1, by omega⟩
  have hquot : n / 10 ^ (k + 1) = n / 10 ^ k / 10 := by rw [pow_succ, Nat.div_div_eq_div_mul]
  rw [Nat.add_sub_cancel, hquot, Nat.div_add_mod, mul_comm, Nat.div_add_mod]

/-- The digit `d` alone decides the nearest multiple: below 5 the rest is less than half a unit, from 5 on the next
multiple is at most half a unit away, and of greater magnitude. -/
theorem rha_nearest {q d r p : Int} (hq : 0 ≤ q) (hd : 0 ≤ d) (hd9 : d ≤ 9) (hr : 0 ≤ r) (hrp : r < p) :
    2 * |(10 * q + d) * p + r - rha q d * (10 * p)| ≤ 10 * p ∧
    (2 * |(10 * q + d) * p + r - rha q d * (10 * p)| = 10 * p →
      |(10 * q + d) * p + r| < |rha q d * (10 * p)|) := by
  have hqp : 0 ≤ q * p := mul_nonneg hq (by omega)
  have hdp : 0 ≤ d * p := mul_nonneg hd (by omega)
  by_cases h5 : 5 ≤ d
  · have hup : 5 * p ≤ d * p := mul_le_mul_of_nonneg_right h5 (by omega)
    have hle9 : d * p ≤ 9 * p := mul_le_mul_of_nonneg_right hd9 (by omega)
    have hdiff : (10 * q + d) * p + r - (q + 1) * (10 * p) = d * p + r - 10 * p := by ring
    have hleft : (10 * q + d) * p + r = 10 * (q * p) + d * p + r := by ring
    have hright : (q + 1) * (10 * p) = 10 * (q * p) + 10 * p := by ring
    rw [rha, if_pos h5, hdiff, abs_of_neg (by omega), hleft, hright, abs_of_nonneg (by omega),
      abs_of_nonneg (by omega)]
    omega
  · have hle4 : d * p ≤ 4 * p := mul_le_mul_of_nonneg_right (by omega) (by omega)
    have hdiff : (10 * q + d) * p + r - q * (10 * p) = d * p + r := by ring
    rw [rha, if_neg h5, if_neg (by omega), hdiff, abs_of_nonneg (by omega)]
    omega

theorem roundQuotient_natCast_nearest (n j : Nat) (hj : 1 ≤ j) :
    2 * |(n : Int) - roundQuotient n j * 10 ^ j| ≤ 10 ^ j ∧
    (2 * |(n : Int) - roundQuotient n j * 10 ^ j| = 10 ^ j → |(n : Int)| < |roundQuotient n j * 10 ^ j|) := by
  have hcut : (n : Int) =
      (10 * (n / 10 ^ j : Nat) + (n / 10 ^ (j - 1) % 10 : Nat)) * 10 ^ (j - 1) + (n % 10 ^ (j - 1) : Nat) := by
    exact_mod_cast digits_cut n j hj
  have hscale : (10 : Int) ^ j = 10 * 10 ^ (j - 1) := by rw [← pow_succ', Nat.sub_add_cancel hj]
  have hrest : ((n % 10 ^ (j - 1) : Nat) : Int) < 10 ^ (j - 1) := by
    exact_mod_cast Nat.mod_lt n (by positivity)
  have hdigit : n / 10 ^ (j - 1) % 10 < 10 := Nat.mod_lt _ (by decide)
  have hnear := rha_nearest (Int.natCast_nonneg (n / 10 ^ j)) (Int.natCast_nonneg (n / 10 ^ (j - 1) % 10))
    (by omega) (Int.natCast_nonneg (n % 10 ^ (j - 1))) hrest
  rw [← hcut, ← hscale] at hnear
  rwa [roundQuotient, tdiv_natCast_ten_pow, tdiv_natCast_ten_pow, trem_natCast_ten]

/-- `roundQuotient c j * 10^j` is the multiple of `10^j` nearest to `c`, the one of greater magnitude of two equally
near (R12). -/
theorem roundQuotient_nearest (c : Int) {j : Nat} (hj : 1 ≤ j) :
    2 * |c - roundQuotient c j * 10 ^ j| ≤ 10 ^ j ∧
    (2 * |c - roundQuotient c j * 10 ^ j| = 10 ^ j → |c| < |roundQuotient c j * 10 ^ j|) := by
  obtain ⟨n, rfl | rfl⟩ := c.eq_nat_or_neg
  · exact roundQuotient_natCast_nearest n j hj
  · rw [roundQuotient_neg, neg_mul, neg_sub_neg, abs_sub_comm, abs_neg, abs_neg]
    exact roundQuotient_natCast_nearest n j hj

/-- Nothing is rounded where the discarded digits are all 0. -/
theorem roundQuotient_mul_ten_pow (m : Int) {j : Nat} (hj : 1 ≤ j) : roundQuotient (m * 10 ^ j) j = m := by
  have hnear := (roundQuotient_nearest (m * 10 ^ j) hj).1
  have hpos : (0 : Int) < 10 ^ j := by positivity
  rw [← sub_mul, abs_mul, abs_of_pos hpos, ← mul_assoc] at hnear
  have hlt : 2 * |m - roundQuotient (m * 10 ^ j) j| ≤ 1 := le_of_mul_le_mul_right (by rwa [one_mul]) hpos
  have hzero : |m - roundQuotient (m * 10 ^ j) j| = 0 := by have := abs_nonneg (m - roundQuotient (m * 10 ^ j) j); omega
  exact (sub_eq_zero.1 (abs_eq_zero.1 hzero)).symm

/-! ### The lift -/

/-- The least positive number of divisions by ten that brings `c` into coefficient range (R70). -/
structure IsLeastLift (c : Int) (j : Nat) : Prop where
  pos : 1 ≤ j
  inRange : inCoefRange (tdiv c (10 ^ j)) = true
  least : ∀ i, 1 ≤ i → i < j → inCoefRange (tdiv c (10 ^ i)) = false

theorem IsLeastLift.unique {c : Int} {i j : Nat} (hi : IsLeastLift c i) (hj : IsLeastLift c j) : i = j := by
  rcases lt_trichotomy i j with h | h | h
  · exact absurd hi.inRange (by rw [hj.least i hi.pos h]; decide)
  · exact h
  · exact absurd hj.inRange (by rw [hi.least j hj.pos h]; decide)

theorem liftRound_eq {c : Int} {j : Nat} (h : IsLeastLift c j) (e : Int) :
    liftRound c e = if e + j ≤ MAXE then some (roundQuotient c j, e + j) else none := by
  cases hl : liftSteps (MAXE - e).toNat c with
  | none =>
    have hshort : ¬ e + j ≤ MAXE := fun hle => by
      have hout := liftSteps_none hl j h.pos (by omega)
      rw [h.inRange] at hout; cases hout
    rw [if_neg hshort, liftRound, hl]
  | some p =>
    obtain ⟨q, d, k⟩ := p
    obtain ⟨j', hj', hk, rfl, rfl, hin, hleast⟩ := liftSteps_some hl
    obtain rfl : j' = j := IsLeastLift.unique ⟨hj', hin, hleast⟩ h
    have hexp : MAXE - (k : Int) = e + j' := by omega
    rw [if_pos (by omega), liftRound, hl]
    simp only [hexp, roundQuotient]

theorem ne_zero_of_not_inCoefRange {c : Int} (h : inCoefRange c = false) : c ≠ 0 := by
  rintro rfl
  cases h

theorem pack_of_inCoefRange {c : Int} (h0 : c ≠ 0) (hr : inCoefRange c = true) (e : Int) :
    pack c e = packExponent c e := by
  rw [pack, if_neg h0, if_pos hr]

theorem pack_of_liftRound_none {c e : Int} (hr : inCoefRange c = false) (h : liftRound c e = none) :
    pack c e = ⟨NAN, FlagSet.overflow⟩ := by
  rw [pack, if_neg (ne_zero_of_not_inCoefRange hr), hr, if_neg Bool.false_ne_true, h]

/-- A lifted pair is packed again; the second lift leaves the coefficient in range. -/
theorem pack_of_liftRound_some {c e c1 e1 : Int} (hr : inCoefRange c = false) (h : liftRound c e = some (c1, e1)) :
    pack c e = pack c1 e1 := by
  obtain ⟨hmin, hmax, h0⟩ := liftRound_bounds hr h
  cases hr1 : inCoefRange c1 with
  | true => simp [pack, ne_zero_of_not_inCoefRange hr, hr, h, h0, hr1]
  | false =>
    cases h1 : liftRound c1 e1 with
    | none => simp [pack, ne_zero_of_not_inCoefRange hr, hr, h, h0, hr1, h1]
    | some p =>
      obtain ⟨c2, e2⟩ := p
      have hone : c1 = MINC - 1 ∨ c1 = MAXC + 1 := by
        rw [not_inCoefRange_iff] at hr1; omega
      have hr2 : inCoefRange c2 = true := (liftRound_again hone h1).1
      simp [pack, ne_zero_of_not_inCoefRange hr, hr, h, h0, hr1, h1, hr2]

theorem pack_lift_overflow {c e : Int} {j : Nat} (hr : inCoefRange c = false) (h : IsLeastLift c j)
    (he : MAXE < e + j) : pack c e = ⟨NAN, FlagSet.overflow⟩ :=
  pack_of_liftRound_none hr (by rw [liftRound_eq h, if_neg (by omega)])

/-- Step 3 of R70: a coefficient out of range is packed as its rounded quotient. -/
theorem pack_lift {c e : Int} {j : Nat} (hr : inCoefRange c = false) (h : IsLeastLift c j) (he : e + j ≤ MAXE) :
    pack c e = pack (roundQuotient c j) (e + j) :=
  pack_of_liftRound_some hr (by rw [liftRound_eq h, if_pos he])

/-! ### The exponent steps -/

/-- What is in coefficient range after `j` multiplications by ten was so after fewer. -/
theorem inCoefRange_ten_pow_mono {c : Int} {i j : Nat} (hij : i ≤ j) (h : inCoefRange (10 ^ j * c) = true) :
    inCoefRange (10 ^ i * c) = true := by
  have habs := natAbs_ten_pow_mul_le c hij
  have hpi : (0 : Int) ≤ 10 ^ i := by positivity
  have hpj : (0 : Int) ≤ 10 ^ j := by positivity
  rw [inCoefRange_iff] at h ⊢
  simp only [MINC, MAXC] at h ⊢
  rcases le_total 0 c with hc | hc
  · have hi := mul_nonneg hpi hc
    have hj := mul_nonneg hpj hc
    omega
  · have hi := mul_nonpos_of_nonneg_of_nonpos hpi hc
    have hj := mul_nonpos_of_nonneg_of_nonpos hpj hc
    omega

theorem scaleUp_of_fits {c : Int} {k : Nat} (h : inCoefRange (10 ^ k * c) = true) :
    scaleUp inCoefRange k c = (10 ^ k * c, 0) := by
  rw [scaleUp_eq_of_greatest (fun i hi => inCoefRange_ten_pow_mono hi h) le_rfl (fun hlt => absurd hlt (lt_irrefl k)),
    Nat.sub_self]

theorem scaleUp_of_not_fits {c : Int} {k : Nat} (hc : inCoefRange c = true) (h : inCoefRange (10 ^ k * c) = false) :
    ∃ c' m, scaleUp inCoefRange k c = (c', m + 1) := by
  obtain ⟨j, hj, heq, hfit, -⟩ := scaleUp_spec inCoefRange k c
  have hne : j ≠ k := by
    rintro rfl
    cases j with
    | zero => simp [hc] at h
    | succ n => simp [hfit (n + 1) (by omega) le_rfl] at h
  obtain ⟨m, hm⟩ : ∃ m, k - j = m + 1 := ⟨k - j - 1, by omega⟩
  exact ⟨_, m, by rw [heq, hm]⟩

/-- Step 4 of R70. -/
theorem pack_above {c e : Int} (h0 : c ≠ 0) (hr : inCoefRange c = true) (he : MAXE < e) :
    pack c e =
      if inCoefRange (c * 10 ^ (e - MAXE).toNat) = true then ⟨word (c * 10 ^ (e - MAXE).toNat) MAXE, FlagSet.none⟩
      else ⟨NAN, FlagSet.overflow⟩ := by
  rw [pack_of_inCoefRange h0 hr, packExponent, if_pos he, mul_comm c]
  cases hfit : inCoefRange (10 ^ (e - MAXE).toNat * c) with
  | true => rw [scaleUp_of_fits hfit]; rfl
  | false =>
    obtain ⟨c', m, hs⟩ := scaleUp_of_not_fits hr hfit
    rw [hs]; rfl

/-- Step 5 of R70. -/
theorem pack_below {c e : Int} (h0 : c ≠ 0) (hr : inCoefRange c = true) (he : e < MINE) :
    pack c e =
      if tdiv c (10 ^ (MINE - e).toNat) = 0 then ⟨ZERO, FlagSet.underflow⟩
      else ⟨word (tdiv c (10 ^ (MINE - e).toNat)) MINE, FlagSet.none⟩ := by
  rw [pack_of_inCoefRange h0 hr, packExponent, if_neg (by simp only [MAXE, MINE] at *; omega), if_pos he, dropSteps_eq]

theorem answerD_underflow (s : State) : answerD ⟨ZERO, FlagSet.underflow⟩ s = .next (s.offer (placeD ZERO) 4#4) := rfl

/-- Settles O24: a lemma for each step of R70. -/
theorem packIsItsClosedForm : Obligations.PackIsItsClosedForm := by
  refine fun c e s => ⟨?zero, ?kept, ?lifted, ?above, ?below⟩
  case zero =>
    rintro rfl
    exact exec_pack_zero e s
  case kept => exact exec_pack_of_in_range s
  case lifted =>
    intro hr j hj hin hleast
    have hlift : IsLeastLift c j := ⟨hj, hin, fun i _ hi => hleast i hi⟩
    refine ⟨fun he => ?_, fun he => ?_⟩
    · rw [exec_pack_eq_answerD, pack_lift_overflow hr hlift he, answerD_overflow]
    · rw [exec_pack_eq_answerD, pack_lift hr hlift he]; rfl
  case above =>
    intro h0 hr he
    rw [exec_pack_eq_answerD, pack_above h0 hr he]
    split
    · exact answerD_of_not_isnan (isnan_word_of_in_range _ (by decide) le_rfl) s
    · exact answerD_overflow s
  case below =>
    intro h0 hr he
    rw [exec_pack_eq_answerD, pack_below h0 hr he]
    split
    · exact answerD_underflow s
    · exact answerD_of_not_isnan (isnan_word_of_in_range _ le_rfl (by decide)) s

/-! ### The words that PACK returns -/

/-- `w` is a non-zero pair in range (R30). -/
def IsFinitePair (w : Word) : Prop := coef w ≠ 0 ∧ MINC ≤ coef w ∧ coef w ≤ MAXC ∧ MINE ≤ expo w ∧ expo w ≤ MAXE

theorem isFinitePair_word {c e : Int} (h0 : c ≠ 0) (hr : inCoefRange c = true) (h1 : MINE ≤ e) (h2 : e ≤ MAXE) :
    IsFinitePair (word c e) := by
  obtain ⟨hmin, hmax⟩ := inCoefRange_iff.1 hr
  rw [IsFinitePair, coef_word hr, expo_word_of_in_range c h1 h2]
  exact ⟨h0, hmin, hmax, h1, h2⟩

/-- A division brings a coefficient closer to 0. -/
theorem inCoefRange_tdiv {c : Int} (hr : inCoefRange c = true) (k : Nat) : inCoefRange (tdiv c (10 ^ k)) = true := by
  rw [inCoefRange_iff] at hr ⊢
  simp only [MINC, MAXC] at hr ⊢
  obtain ⟨n, rfl | rfl⟩ := c.eq_nat_or_neg
  · have hle := Nat.div_le_self n (10 ^ k)
    rw [tdiv_natCast_ten_pow]
    generalize n / 10 ^ k = m at hle
    omega
  · have hle := Nat.div_le_self n (10 ^ k)
    rw [tdiv_neg, tdiv_natCast_ten_pow]
    generalize n / 10 ^ k = m at hle
    omega

/-- The answers of PACK: `ZERO` or `NAN` with a flag or none, or a non-zero pair in range without a flag (R30, R70). -/
theorem packExponent_answer {c : Int} (h0 : c ≠ 0) (hr : inCoefRange c = true) (e : Int) :
    packExponent c e = ⟨NAN, FlagSet.overflow⟩ ∨ packExponent c e = ⟨ZERO, FlagSet.underflow⟩ ∨
    ∃ w, IsFinitePair w ∧ packExponent c e = ⟨w, FlagSet.none⟩ := by
  obtain ⟨h1, h2, hp⟩ | ⟨-, hfit, hp⟩ | ⟨-, hp⟩ | ⟨-, hne, hp⟩ | ⟨-, -, hp⟩ := packExponent_cases hr e
  · exact .inr (.inr ⟨_, isFinitePair_word h0 hr h1 h2, hp⟩)
  · exact .inr (.inr ⟨_, isFinitePair_word (mul_ne_zero (by positivity) h0) hfit (by decide) le_rfl, hp⟩)
  · exact .inl hp
  · exact .inr (.inr ⟨_, isFinitePair_word hne (inCoefRange_tdiv hr _) le_rfl (by decide), hp⟩)
  · exact .inr (.inl hp)

theorem pack_answer (c e : Int) :
    pack c e = ⟨ZERO, FlagSet.none⟩ ∨ pack c e = ⟨NAN, FlagSet.overflow⟩ ∨ pack c e = ⟨ZERO, FlagSet.underflow⟩ ∨
    ∃ w, IsFinitePair w ∧ pack c e = ⟨w, FlagSet.none⟩ := by
  obtain ⟨-, hp⟩ | ⟨h0, hr, hp⟩ | ⟨-, c', e', hr, h0, -, -, hp⟩ | ⟨-, hp⟩ := pack_cases c e
  · exact .inl hp
  · rw [hp]; exact .inr (packExponent_answer h0 hr e)
  · rw [hp]; exact .inr (packExponent_answer h0 hr e')
  · exact .inr (.inl hp)

/-- Settles O25: the word of each answer of PACK. -/
theorem packResultIsCanonical : Obligations.PackResultIsCanonical := by
  refine fun c e s => ⟨(pack c e).w, wordFlags (pack c e), exec_pack c e s, ?_⟩
  obtain hp | hp | hp | ⟨w, hw, hp⟩ := pack_answer c e
  · exact .inl (congrArg Answer.w hp)
  · exact .inr (.inl (congrArg Answer.w hp))
  · exact .inl (congrArg Answer.w hp)
  · rw [hp]; exact .inr (.inr hw)

/-! ### The rounding error of a lift -/

theorem ten_zpow_add_natCast (e : Int) (j : Nat) : (10 : ℚ) ^ (e + j) = 10 ^ e * 10 ^ j := by
  rw [zpow_add₀ (by norm_num), zpow_natCast]

/-- An error of at most `r` units of `10^j` in the coefficient is one of `r` units of `10^(e + j)` in the number. -/
theorem abs_sub_mul_zpow (c q e : Int) (j : Nat) :
    |(c : ℚ) * (10 : ℚ) ^ e - q * (10 : ℚ) ^ (e + j)| = ((|c - q * 10 ^ j| : Int) : ℚ) * (10 : ℚ) ^ e := by
  have hpos : (0 : ℚ) < (10 : ℚ) ^ e := by positivity
  have hfactor : (c : ℚ) * (10 : ℚ) ^ e - q * (10 : ℚ) ^ (e + j) = ((c - q * 10 ^ j : Int) : ℚ) * (10 : ℚ) ^ e := by
    rw [ten_zpow_add_natCast]; push_cast; ring
  rw [hfactor, abs_mul, abs_of_pos hpos, Int.cast_abs]

/-- One lift is within half a unit of the new last place. -/
theorem liftRound_error {c e c1 e1 : Int} (h : liftRound c e = some (c1, e1)) :
    2 * |(c : ℚ) * (10 : ℚ) ^ e - c1 * (10 : ℚ) ^ e1| ≤ (10 : ℚ) ^ e1 := by
  obtain ⟨j, hj, rfl, -, rfl, -⟩ := liftRound_some h
  have hnear : 2 * |c - roundQuotient c j * 10 ^ j| ≤ 10 ^ j := (roundQuotient_nearest c hj).1
  have hq : ((2 * |c - roundQuotient c j * 10 ^ j| : Int) : ℚ) ≤ ((10 ^ j : Int) : ℚ) := Int.cast_le.2 hnear
  have hpos : (0 : ℚ) < (10 : ℚ) ^ e := by positivity
  have hscaled := mul_le_mul_of_nonneg_right hq hpos.le
  have herr := abs_sub_mul_zpow c (roundQuotient c j) e j
  rw [roundQuotient] at herr hscaled
  rw [herr, ten_zpow_add_natCast]
  push_cast at hscaled ⊢
  linarith

theorem pack_word_error {c e c1 e1 : Int} (h0 : c1 ≠ 0) (hr : inCoefRange c1 = true) (h1 : MINE ≤ e1)
    (h2 : e1 ≤ MAXE) (hp : pack c e = pack c1 e1)
    (herr : 2 * |(c : ℚ) * (10 : ℚ) ^ e - c1 * (10 : ℚ) ^ e1| ≤ (10 : ℚ) ^ e1) :
    ∃ w : Word, pack c e = ⟨w, FlagSet.none⟩ ∧ IsFinitePair w ∧
      2 * |(c : ℚ) * (10 : ℚ) ^ e - value w| ≤ (10 : ℚ) ^ expo w := by
  refine ⟨word c1 e1, by rw [hp, pack_of_in_range h0 hr h1 h2], isFinitePair_word h0 hr h1 h2, ?_⟩
  rwa [value_word hr h1 h2, expo_word_of_in_range c1 h1 h2]

/-- The second lift starts from 2^55 or its negative less one; it is off by at most 2 units of the first lift's last
place, which together with the first lift's half unit stays below the 5 units that half of its own last place is. -/
theorem liftRound_twice_error {c e c1 e1 c2 e2 : Int} (hone : c1 = MINC - 1 ∨ c1 = MAXC + 1)
    (h1 : liftRound c e = some (c1, e1)) (h2 : liftRound c1 e1 = some (c2, e2)) :
    2 * |(c : ℚ) * (10 : ℚ) ^ e - c2 * (10 : ℚ) ^ e2| ≤ (10 : ℚ) ^ e2 := by
  have herr1 := liftRound_error h1
  have hlift : IsLeastLift c1 1 := ⟨le_rfl, by rcases hone with rfl | rfl <;> decide, by omega⟩
  rw [liftRound_eq hlift] at h2
  split at h2
  · obtain ⟨rfl, rfl⟩ := Prod.mk.inj (Option.some.inj h2)
    have hround : |c1 - roundQuotient c1 1 * 10 ^ 1| ≤ 2 := by rcases hone with rfl | rfl <;> decide
    have hround' : ((|c1 - roundQuotient c1 1 * 10 ^ 1| : Int) : ℚ) ≤ 2 := by exact_mod_cast hround
    have hpos : (0 : ℚ) < (10 : ℚ) ^ e1 := by positivity
    have herr2 := abs_sub_mul_zpow c1 (roundQuotient c1 1) e1 1
    have htri := abs_sub_le ((c : ℚ) * (10 : ℚ) ^ e) (c1 * (10 : ℚ) ^ e1)
      (roundQuotient c1 1 * (10 : ℚ) ^ (e1 + (1 : Nat)))
    have hscale := ten_zpow_add_natCast e1 1
    have hbound := mul_le_mul_of_nonneg_right hround' hpos.le
    rw [herr2] at htri
    rw [hscale] at htri ⊢
    linarith
  · cases h2

/-- Out of coefficient range PACK overflows, or rounds to within half a unit of the last place: one lift does, and so do
two. -/
theorem pack_rounds {c e : Int} (hr : inCoefRange c = false) (he : MINE ≤ e) :
    pack c e = ⟨NAN, FlagSet.overflow⟩ ∨
    ∃ w : Word, pack c e = ⟨w, FlagSet.none⟩ ∧ IsFinitePair w ∧
      2 * |(c : ℚ) * (10 : ℚ) ^ e - value w| ≤ (10 : ℚ) ^ expo w := by
  cases hl : liftRound c e with
  | none => exact .inl (pack_of_liftRound_none hr hl)
  | some p =>
    obtain ⟨c1, e1⟩ := p
    obtain ⟨hmin, hmax, h0⟩ := liftRound_bounds hr hl
    obtain ⟨j, -, he1, hle1, -⟩ := liftRound_some hl
    have hp := pack_of_liftRound_some hr hl
    cases hr1 : inCoefRange c1 with
    | true => exact .inr (pack_word_error h0 hr1 (by omega) hle1 hp (liftRound_error hl))
    | false =>
      have hone : c1 = MINC - 1 ∨ c1 = MAXC + 1 := by
        rw [not_inCoefRange_iff] at hr1; omega
      cases hl1 : liftRound c1 e1 with
      | none => exact .inl (by rw [hp, pack_of_liftRound_none hr1 hl1])
      | some p =>
        obtain ⟨c2, e2⟩ := p
        obtain ⟨hr2, h02⟩ := liftRound_again hone hl1
        obtain ⟨j2, -, he2, hle2, -⟩ := liftRound_some hl1
        exact .inr (pack_word_error h02 hr2 (by omega) hle2 (hp.trans (pack_of_liftRound_some hr1 hl1))
          (liftRound_twice_error hone hl hl1))

theorem not_isnan_of_isFinitePair {w : Word} (h : IsFinitePair w) : isnan w = false := by
  obtain ⟨-, -, -, hmin, -⟩ := h
  rw [Bool.eq_false_iff, ne_eq, isnan_iff]
  exact (lt_of_lt_of_le (by decide) hmin).ne'

/-- Settles O26: `pack_rounds` on the ports. -/
theorem packRoundsToNearest : Obligations.PackRoundsToNearest := by
  intro c e s hr he
  rcases pack_rounds hr he with hp | ⟨w, hp, hw, herr⟩
  · exact .inl (by rw [exec_pack_eq_answerD, hp, answerD_overflow])
  · exact .inr ⟨w, by rw [exec_pack_eq_answerD, hp, answerD_of_not_isnan (not_isnan_of_isFinitePair hw)], herr⟩

end Sys2Proof.Machine
end

section
/-! Proofs of the rest of the arithmetic family (42_arithmetic.md R100 to R105): the laws of ADD and NEG, MUL and
DIV. -/

namespace Sys2Proof.Machine

/-! ### The number of a packed pair -/

theorem inCoefRange_coef (w : Word) : inCoefRange (coef w) = true := inCoefRange_iff.2 (coef_bounds w)

theorem iszero_iff_coef_of_not_isnan {w : Word} (h : isnan w = false) : iszero w = true ↔ coef w = 0 := by
  have he : expo w ≠ -128 := fun he => by simp [(isnan_iff w).2 he] at h
  rw [iszero_iff, and_iff_left he]

theorem iszero_eq_false_of_coef_ne {w : Word} (h : coef w ≠ 0) : iszero w = false :=
  Bool.eq_false_iff.2 fun hz => h ((iszero_iff w).1 hz).1

theorem value_of_coef_eq_zero {w : Word} (h : coef w = 0) : value w = 0 := by
  rw [value, h, Int.cast_zero, zero_mul]

/-- A pair in range, zero or not, is packed to a word that stands for its number. -/
theorem pack_exact {c e : Int} (hc : inCoefRange c = true) (h1 : MINE ≤ e) (h2 : e ≤ MAXE) :
    ∃ w : Word, pack c e = ⟨w, FlagSet.none⟩ ∧ isnan w = false ∧ value w = (c : ℚ) * (10 : ℚ) ^ e := by
  by_cases h0 : c = 0
  · subst h0
    exact ⟨ZERO, pack_zero e, rfl, by rw [value_of_coef_eq_zero coef_ZERO, Int.cast_zero, zero_mul]⟩
  · exact ⟨word c e, pack_of_in_range h0 hc h1 h2, isnan_word_of_in_range c h1 h2, value_word hc h1 h2⟩

/-! ### ADD: symmetry, and exact sums -/

theorem add_symm (a b : Word) : add a b = add b a := by
  by_cases hn : isnan a = true ∨ isnan b = true
  · rw [add_of_isnan hn, add_of_isnan hn.symm]
  obtain ⟨ha, hb⟩ : isnan a = false ∧ isnan b = false := by simpa using hn
  rcases lt_trichotomy (expo a) (expo b) with h | h | h
  · rw [add_of_expo_gt ha hb h, add_of_expo_lt hb ha h]
  · rw [add_of_expo_eq ha hb h, add_of_expo_eq hb ha h.symm, add_comm (coef a), h]
  · rw [add_of_expo_lt ha hb h, add_of_expo_gt hb ha h]

/-- With the sum at the smaller exponent in coefficient range, the accumulator holds the larger operand's coefficient
scaled all the way down, so no digit is dropped. -/
theorem add_exact_of_expo_lt {a b : Word} (ha : isnan a = false) (hb : isnan b = false) (he : expo b < expo a)
    (hfit : inCoefRange (coef a * 10 ^ (expo a - expo b).toNat + coef b) = true) :
    ∃ w : Word, add a b = ⟨w, FlagSet.none⟩ ∧ isnan w = false ∧ value w = value a + value b := by
  by_cases h0 : coef b = 0
  · refine ⟨a, ?_, ha, by rw [value_of_coef_eq_zero h0, add_zero]⟩
    rw [add_of_expo_lt ha hb he, h0, addAligned_of_zero]
  · have hacc : inAccumulator (10 ^ (expo a - expo b).toNat * coef a) = true := by
      have hbound := coef_bounds b
      rw [inCoefRange_iff, mul_comm] at hfit
      rw [inAccumulator_iff]
      simp only [MINC, MAXC] at hfit hbound
      omega
    obtain ⟨w, hw, hn, hv⟩ := pack_exact hfit (MINE_le_expo hb) (expo_bounds b).2
    refine ⟨w, ?_, hn, ?_⟩
    · have hexp : expo a - ((expo a - expo b).toNat : Int) = expo b := by omega
      have hone (c : Int) : tdiv c (10 ^ 0) = c := Int.tdiv_one c
      rw [add_of_expo_lt ha hb he, addAligned_of_greatest a he.le h0 le_rfl hacc (fun h => absurd h (lt_irrefl _)),
        Nat.sub_self, hone, hexp, mul_comm, hw]
    · have hscale : (10 : ℚ) ^ expo a = 10 ^ expo b * 10 ^ (expo a - expo b).toNat := by
        rw [← ten_zpow_add_natCast]; congr 1; omega
      rw [hv, value, value, hscale]
      push_cast
      ring

theorem add_exact {a b : Word} (ha : isnan a = false) (hb : isnan b = false)
    (hfit : inCoefRange
      (coef a * 10 ^ (expo a - min (expo a) (expo b)).toNat +
        coef b * 10 ^ (expo b - min (expo a) (expo b)).toNat) = true) :
    ∃ w : Word, add a b = ⟨w, FlagSet.none⟩ ∧ isnan w = false ∧ value w = value a + value b := by
  rcases lt_trichotomy (expo a) (expo b) with h | h | h
  · rw [min_eq_left h.le, sub_self, Int.toNat_zero, pow_zero, mul_one, add_comm] at hfit
    obtain ⟨w, hw, hn, hv⟩ := add_exact_of_expo_lt hb ha h hfit
    exact ⟨w, by rw [add_symm, hw], hn, by rw [hv, add_comm]⟩
  · rw [h, min_self, sub_self, Int.toNat_zero, pow_zero, mul_one, mul_one] at hfit
    refine ⟨word (coef a + coef b) (expo a), ?_, isnan_word_expo _ ha, ?_⟩
    · rw [add_of_expo_eq ha hb h, if_pos hfit]
    · rw [value_word hfit (MINE_le_expo ha) (expo_bounds a).2, value, value, ← h]
      push_cast
      ring
  · rw [min_eq_right h.le, sub_self, Int.toNat_zero, pow_zero, mul_one] at hfit
    exact add_exact_of_expo_lt ha hb h hfit

/-- Settles O36: `add_exact` on the ports. -/
theorem addIsExactWhenItFits : Obligations.AddIsExactWhenItFits := by
  intro a b s ha hb hfit
  obtain ⟨w, hw, hn, hv⟩ := add_exact ha hb hfit
  exact ⟨w, by rw [exec_add, hw, answerD_of_not_isnan hn], hn, hv⟩

/-! ### NEG twice -/

/-- Settles O39: a coefficient other than 0 and `MINC` has a negation that is neither. -/
theorem doubleNegationIsIdentity : Obligations.DoubleNegationIsIdentity := by
  intro a n f s hn h0 hmin hneg
  rw [exec_neg, neg_of_coef_ne hn h0 hmin] at hneg
  obtain ⟨hword, -⟩ := answer_of_answerD_eq hneg
  obtain rfl : word (-coef a) (expo a) = n := congrArg Answer.w hword
  have hcoef : coef (word (-coef a) (expo a)) = -coef a := coef_word (neg_coef_in_range hmin) _
  have hexpo : expo (word (-coef a) (expo a)) = expo a :=
    expo_word_of_in_range _ (MINE_le_expo hn) (expo_bounds a).2
  have hmax := (coef_bounds a).2
  rw [exec_neg, neg_of_coef_ne (isnan_word_expo _ hn) (by rw [hcoef]; omega)
    (by rw [hcoef]; simp only [MINC, MAXC] at hmax ⊢; omega), hcoef, hexpo, neg_neg, word_coef_expo,
    answerD_of_not_isnan hn]

/-! ### MUL -/

theorem exec_mul (a b : Word) (s : State) : exec (.mul a b) s = answerD (mul a b) s := rfl

theorem decode_mul (p : Port) (q : BitVec 64) : decode ⟨0x33#8, p, q⟩ = .ok (.mul (operandD p) q) := rfl

theorem mul_of_isnan {a b : Word} (h : isnan a = true ∨ isnan b = true) : mul a b = ⟨NAN, FlagSet.none⟩ := by
  rw [mul, if_pos (by simpa using h)]

theorem mul_of_coef_eq_zero {a b : Word} (ha : isnan a = false) (hb : isnan b = false)
    (h : coef a = 0 ∨ coef b = 0) : mul a b = ⟨ZERO, FlagSet.none⟩ := by
  rw [← iszero_iff_coef_of_not_isnan ha, ← iszero_iff_coef_of_not_isnan hb] at h
  rw [mul, if_neg (by simp [ha, hb]), if_pos (by simpa using h)]

theorem mul_symm (a b : Word) : mul a b = mul b a := by
  rw [mul, mul, Bool.or_comm (isnan a), Bool.or_comm (iszero a), mul_comm (coef a), add_comm (expo a)]

/-- Settles O34. -/
theorem addAndMulCommute : Obligations.AddAndMulCommute := by
  intro a b s
  exact ⟨by rw [exec_add, exec_add, add_symm], by rw [exec_mul, exec_mul, mul_symm]⟩

theorem tdiv_eq_zero_of_natAbs_lt {c : Int} {k : Nat} (h : c.natAbs < 10 ^ k) : tdiv c (10 ^ k) = 0 := by
  obtain ⟨n, rfl | rfl⟩ := c.eq_nat_or_neg
  · rw [tdiv_natCast_ten_pow, Nat.div_eq_of_lt (by simpa using h)]; rfl
  · rw [tdiv_neg, tdiv_natCast_ten_pow, Nat.div_eq_of_lt (by simpa using h)]; rfl

/-- The exit condition of loop (a) of MUL after `n` divisions (R103, R166). -/
def InRangeAfter (p e : Int) (n : Nat) : Prop := inCoefRange (tdiv p (10 ^ n)) = true ∧ MINE ≤ e + n

/-- The bound of `liftToRange` is enough: by then the coefficient is 0. -/
theorem inRangeAfter_liftBound (p e : Int) : InRangeAfter p e (liftBound p e) := by
  have hlog : p.natAbs < 2 ^ (p.natAbs.log2 + 1) := Nat.lt_log2_self
  have htwo : 2 ^ (p.natAbs.log2 + 1) ≤ 10 ^ (p.natAbs.log2 + 1) := Nat.pow_le_pow_left (by decide) _
  have hten : 10 ^ (p.natAbs.log2 + 1) ≤ 10 ^ liftBound p e :=
    Nat.pow_le_pow_right (by decide) (Nat.le_add_right _ _)
  refine ⟨by rw [tdiv_eq_zero_of_natAbs_lt (hlog.trans_le (htwo.trans hten))]; rfl, ?_⟩
  rw [liftBound]
  omega

/-- `liftToRange` in closed form: the least number of divisions that meets its exit condition. -/
theorem liftToRange_eq {p e : Int} {n : Nat} (d : Int) (hn : InRangeAfter p e n)
    (hleast : ∀ i, i < n → ¬InRangeAfter p e i) :
    liftToRange (liftBound p e) p e d =
      (tdiv p (10 ^ n), e + n, if n = 0 then d else trem (tdiv p (10 ^ (n - 1))) 10) := by
  obtain ⟨j, hj, heq, hbefore, hstop⟩ := liftToRange_spec (liftBound p e) p e d
  have hbound : ¬ liftBound p e < n := fun h => hleast _ h (inRangeAfter_liftBound p e)
  have hnot_lt : ¬ j < n := fun h => hleast j h (hstop (by omega))
  have hnot_gt : ¬ n < j := fun h => hbefore n h hn
  obtain rfl : j = n := by omega
  exact heq

theorem mul_of_coef_ne {a b : Word} (ha : isnan a = false) (hb : isnan b = false) (ha0 : coef a ≠ 0)
    (hb0 : coef b ≠ 0) {n : Nat} (hn : InRangeAfter (coef a * coef b) (expo a + expo b) n)
    (hleast : ∀ i, i < n → ¬InRangeAfter (coef a * coef b) (expo a + expo b) i) :
    mul a b = mulFinish (tdiv (coef a * coef b) (10 ^ n)) (expo a + expo b + n)
      (if n = 0 then 0 else trem (tdiv (coef a * coef b) (10 ^ (n - 1))) 10) := by
  rw [mul, if_neg (by simp [ha, hb]),
    if_neg (by simp [iszero_eq_false_of_coef_ne ha0, iszero_eq_false_of_coef_ne hb0]), liftToRange_eq 0 hn hleast]

/-- The end of MUL, loop (b) in closed form (R103). -/
theorem mulFinish_eq {p : Int} (hp : inCoefRange p = true) (e d : Int) :
    mulFinish p e d =
      if inCoefRange (10 ^ (e - MAXE).toNat * p) = true then
        if rha (10 ^ (e - MAXE).toNat * p) d = 0 then ⟨ZERO, FlagSet.underflow⟩
        else pack (rha (10 ^ (e - MAXE).toNat * p) d) (min e MAXE)
      else ⟨NAN, FlagSet.overflow⟩ := by
  cases hfit : inCoefRange (10 ^ (e - MAXE).toNat * p) with
  | true => rw [mulFinish, scaleUp_of_fits hfit]; rfl
  | false =>
    obtain ⟨c', m, hs⟩ := scaleUp_of_not_fits hp hfit
    rw [mulFinish, hs]; rfl

theorem answerD_mulFinish {p : Int} (hp : inCoefRange p = true) (e d : Int) (s : State) :
    answerD (mulFinish p e d) s =
      if inCoefRange (10 ^ (e - MAXE).toNat * p) = true then
        if rha (10 ^ (e - MAXE).toNat * p) d = 0 then .next (s.offer (placeD ZERO) 4#4)
        else exec (.pack (rha (10 ^ (e - MAXE).toNat * p) d) (min e MAXE)) s
      else .next (s.offer (placeD NAN) 3#4) := by
  rw [mulFinish_eq hp]
  split
  · split
    · exact answerD_underflow s
    · rfl
  · exact answerD_overflow s

/-- Settles O40: both loops in closed form, then the exits of `mulFinish`. -/
theorem mulIsItsRule : Obligations.MulIsItsRule := by
  refine ⟨decode_mul, fun a b s => ⟨?nan, ?zero, ?product⟩⟩
  case nan =>
    intro hn
    rw [exec_mul, mul_of_isnan hn, answerD_NAN]
  case zero =>
    intro ha hb h0
    rw [exec_mul, mul_of_coef_eq_zero ha hb h0, answerD_ZERO]
  case product =>
    intro ha hb ha0 hb0 n p e d hp he hd hr hmin hleast
    subst hp he hd
    rw [exec_mul, mul_of_coef_ne ha hb ha0 hb0 ⟨hr, hmin⟩ hleast, answerD_mulFinish hr]

theorem rha_zero (q : Int) : rha q 0 = q := rfl

/-- Settles O41: no division and no multiplication is needed. -/
theorem mulIsExactWhenItFits : Obligations.MulIsExactWhenItFits := by
  intro a b s ha hb ha0 hb0 hr hmin hmax
  have hone : tdiv (coef a * coef b) (10 ^ 0) = coef a * coef b := Int.tdiv_one _
  have hn : InRangeAfter (coef a * coef b) (expo a + expo b) 0 := ⟨by rwa [hone], by simpa using hmin⟩
  have hnone : (expo a + expo b - MAXE).toNat = 0 := by omega
  have hmul : mul a b = ⟨word (coef a * coef b) (expo a + expo b), FlagSet.none⟩ := by
    rw [mul_of_coef_ne ha hb ha0 hb0 hn (fun i hi => absurd hi (Nat.not_lt_zero i)), hone, if_pos rfl,
      Nat.cast_zero, add_zero, mulFinish_eq hr, hnone, pow_zero, one_mul, if_pos hr, rha_zero,
      if_neg (mul_ne_zero ha0 hb0), min_eq_left hmax, pack_of_in_range (mul_ne_zero ha0 hb0) hr hmin hmax]
  refine ⟨by rw [exec_mul, hmul, answerD_of_not_isnan (isnan_word_of_in_range _ hmin hmax)], ?_⟩
  rw [value_word hr hmin hmax, value, value, zpow_add₀ (by norm_num)]
  push_cast
  ring

/-! ### DIV -/

theorem exec_div (a b : Word) (s : State) : exec (.div a b) s = answerD (div a b) s := rfl

theorem decode_div (p : Port) (q : BitVec 64) : decode ⟨0x34#8, p, q⟩ = .ok (.div (operandD p) q) := rfl

theorem div_of_isnan {a b : Word} (h : isnan a = true ∨ isnan b = true) : div a b = ⟨NAN, FlagSet.none⟩ := by
  rw [div, if_pos (by simpa using h)]

theorem div_of_iszero_right {a b : Word} (ha : isnan a = false) (h : iszero b = true) :
    div a b = ⟨NAN, FlagSet.none⟩ := by
  rw [div, if_neg (by simp [ha, not_isnan_of_iszero h]), if_pos h]

theorem div_of_iszero_left {a b : Word} (h : iszero a = true) (hb : isnan b = false) (hb0 : coef b ≠ 0) :
    div a b = ⟨ZERO, FlagSet.none⟩ := by
  rw [div, if_neg (by simp [hb, not_isnan_of_iszero h]), iszero_eq_false_of_coef_ne hb0, if_neg Bool.false_ne_true,
    if_pos h]

/-- After 34 extensions the next quotient has at least 19 digits, so it does not fit (R104). -/
theorem quotient_not_inCoefRange (a : Word) (ha0 : coef a ≠ 0) (b : Word) (hb0 : coef b ≠ 0) :
    inCoefRange (tdiv (10 ^ 35 * coef a) (coef b)) = false := by
  have habs : (tdiv (10 ^ 35 * coef a) (coef b)).natAbs = 10 ^ 35 * (coef a).natAbs / (coef b).natAbs := by
    rw [tdiv, Int.natAbs_tdiv, Int.natAbs_mul, Int.natAbs_pow]; rfl
  have hb : (coef b).natAbs ≤ 36028797018963968 := by
    have hbound := coef_bounds b
    simp only [MINC, MAXC] at hbound
    omega
  have hquot : 10 ^ 35 / 36028797018963968 ≤ 10 ^ 35 * (coef a).natAbs / (coef b).natAbs :=
    Nat.div_le_div (Nat.le_mul_of_pos_right _ (by omega)) hb (by omega)
  rw [not_inCoefRange_iff]
  simp only [MINC, MAXC]
  rw [← habs] at hquot
  omega

theorem divFinish_eq (q e : Int) :
    divFinish q e =
      if MAXE < e then ⟨NAN, FlagSet.overflow⟩ else if e < MINE then ⟨ZERO, FlagSet.underflow⟩ else pack q e := rfl

/-- DIV of two non-zero words, the loop told by the number of extensions (R104, D16). -/
theorem div_of_coef_ne {a b : Word} (ha : isnan a = false) (hb : isnan b = false) (ha0 : coef a ≠ 0)
    (hb0 : coef b ≠ 0) :
    ∃ k : Nat, k ≤ 34 ∧
      (10 ^ k * coef a - tdiv (10 ^ k * coef a) (coef b) * coef b = 0 ∨
        inCoefRange (tdiv (10 ^ (k + 1) * coef a) (coef b)) = false) ∧
      (∀ i : Nat, i < k →
        10 ^ i * coef a - tdiv (10 ^ i * coef a) (coef b) * coef b ≠ 0 ∧
        inCoefRange (tdiv (10 ^ (i + 1) * coef a) (coef b)) = true) ∧
      div a b = divFinish (tdiv (10 ^ k * coef a) (coef b)) (expo a - expo b - k) := by
  obtain ⟨k, hk, heq, hstop, hbefore⟩ := divExtend_spec divSteps (coef a) (coef b) (expo a - expo b)
  refine ⟨k, hk, ?_, hbefore, ?_⟩
  · rcases Nat.lt_or_eq_of_le hk with hlt | rfl
    · exact hstop hlt
    · exact .inr (quotient_not_inCoefRange a ha0 b hb0)
  · rw [div, if_neg (by simp [ha, hb]), iszero_eq_false_of_coef_ne hb0, iszero_eq_false_of_coef_ne ha0,
      if_neg Bool.false_ne_true, if_neg Bool.false_ne_true, heq]

/-- Settles O42: the order of the tests, then the loop by `div_of_coef_ne`. -/
theorem divIsItsRule : Obligations.DivIsItsRule := by
  refine ⟨decode_div, fun a b s => ⟨?nan, ?divisor, ?dividend, ?quotient⟩⟩
  case nan =>
    intro hn
    rw [exec_div, div_of_isnan hn, answerD_NAN]
  case divisor =>
    intro ha hz
    rw [exec_div, div_of_iszero_right ha hz, answerD_NAN]
  case dividend =>
    intro hz hb hb0
    rw [exec_div, div_of_iszero_left hz hb hb0, answerD_ZERO]
  case quotient =>
    intro ha hb ha0 hb0
    obtain ⟨k, hk, hstop, hbefore, hdiv⟩ := div_of_coef_ne ha hb ha0 hb0
    refine ⟨k, hk, hstop, hbefore, ?_⟩
    rw [exec_div, hdiv, divFinish_eq]
    split
    · exact answerD_overflow s
    · split
      · exact answerD_underflow s
      · rfl

end Sys2Proof.Machine
end

section
/-! Proofs of the comparison family (41_comparison.md R90 to R92): the sign of a difference, EQ and CMP. -/

namespace Sys2Proof.Machine

/-! ### The sign of a packed number and of a sum -/

/-- A summand of smaller magnitude does not change the sign. -/
theorem sign_add_of_abs_lt {R : Type} [CommRing R] [LinearOrder R] [IsStrictOrderedRing R] {x y : R} (h : |y| < |x|) :
    SignType.sign (x + y) = SignType.sign x := by
  obtain ⟨h1, h2⟩ := abs_lt.1 h
  rcases lt_trichotomy x 0 with hx | rfl | hx
  · rw [abs_of_neg hx] at h1 h2
    rw [sign_neg hx, sign_neg (by linarith)]
  · rw [abs_zero] at h
    exact absurd h (abs_nonneg y).not_gt
  · rw [abs_of_pos hx] at h1 h2
    rw [sign_pos hx, sign_pos (by linarith)]

theorem sign_mul_zpow (c e : Int) : SignType.sign ((c : ℚ) * (10 : ℚ) ^ e) = SignType.sign c := by
  rw [sign_mul, sign_pos (show (0 : ℚ) < 10 ^ e by positivity), mul_one, sign_intCast]

theorem sign_value (w : Word) : SignType.sign (value w) = SignType.sign (coef w) := sign_mul_zpow _ _

/-- What is within half a unit of the last place of a non-zero word has the sign of its coefficient. -/
theorem sign_coef_of_error {w : Word} {x : ℚ} (h0 : coef w ≠ 0) (h : 2 * |x - value w| ≤ (10 : ℚ) ^ expo w) :
    SignType.sign (coef w) = SignType.sign x := by
  have hpos : (0 : ℚ) < 10 ^ expo w := by positivity
  have hone : (1 : ℚ) ≤ ((|coef w| : Int) : ℚ) := by exact_mod_cast Int.one_le_abs h0
  have hunit : (10 : ℚ) ^ expo w ≤ |value w| := by
    rw [abs_value]
    exact le_mul_of_one_le_left hpos.le hone
  have hsum := sign_add_of_abs_lt (show |x - value w| < |value w| by linarith)
  rw [add_sub_cancel, sign_value] at hsum
  exact hsum.symm

/-- An answer whose sign is that of `x`, unless it is an overflow, which a zero never gives. -/
def HasSignOf (p : Answer) (x : ℚ) : Prop :=
  (p = ⟨NAN, FlagSet.overflow⟩ ∧ x ≠ 0) ∨
  ∃ w, p = ⟨w, FlagSet.none⟩ ∧ isnan w = false ∧ SignType.sign (coef w) = SignType.sign x

theorem pack_hasSignOf {c e : Int} (h1 : MINE ≤ e) (h2 : e ≤ MAXE) {x : ℚ} (hx : SignType.sign c = SignType.sign x) :
    HasSignOf (pack c e) x := by
  cases hr : inCoefRange c with
  | true =>
    obtain ⟨w, hp, hn, hv⟩ := pack_exact hr h1 h2
    exact .inr ⟨w, hp, hn, by rw [← sign_value, hv, sign_mul_zpow, hx]⟩
  | false =>
    rcases pack_rounds hr h1 with hp | ⟨w, hp, hw, herr⟩
    · refine .inl ⟨hp, ?_⟩
      rw [← sign_ne_zero, ← hx, sign_ne_zero]
      exact ne_zero_of_not_inCoefRange hr
    · exact .inr ⟨w, hp, not_isnan_of_isFinitePair hw, by rw [sign_coef_of_error hw.1 herr, sign_mul_zpow, hx]⟩

theorem natAbs_tdiv_le (c : Int) (k : Nat) : (tdiv c (10 ^ k)).natAbs ≤ c.natAbs := by
  rw [tdiv, Int.natAbs_tdiv]
  exact Nat.div_le_self _ _

/-- The alignment loop stops short only where the larger exponent's coefficient has 18 digits, more than the other can
have, so dropping digits of the other never changes the sign. -/
theorem sign_aligned_sum {a b : Word} (he : expo b < expo a) {j : Nat} (hj : j ≤ (expo a - expo b).toNat)
    (hstop : j < (expo a - expo b).toNat → inAccumulator (10 ^ (j + 1) * coef a) = false) :
    SignType.sign (10 ^ j * coef a + tdiv (coef b) (10 ^ ((expo a - expo b).toNat - j))) =
      SignType.sign (value a + value b) := by
  have hscale : value a = ((10 ^ j * coef a : Int) : ℚ) * (10 : ℚ) ^ (expo a - j) := by
    have hpow : (10 : ℚ) ^ expo a = 10 ^ (expo a - j) * 10 ^ j := by
      rw [← ten_zpow_add_natCast, sub_add_cancel]
    rw [value, hpow]
    push_cast
    ring
  rcases Nat.lt_or_eq_of_le hj with hlt | rfl
  · have hbig : 36028797018963968 < |10 ^ j * coef a| := by
      have hout : ¬(inAccumulator (10 ^ (j + 1) * coef a) = true) := by rw [hstop hlt]; decide
      rw [inAccumulator_iff, pow_succ', mul_assoc] at hout
      rw [lt_abs]
      omega
    have hsmall : |coef b| ≤ 36028797018963968 := by
      have hb := coef_bounds b
      rw [abs_le]
      simp only [MINC, MAXC] at hb
      omega
    have hdropped : |tdiv (coef b) (10 ^ ((expo a - expo b).toNat - j))| ≤ |coef b| := by
      have hle := natAbs_tdiv_le (coef b) ((expo a - expo b).toNat - j)
      rw [Int.abs_eq_natAbs, Int.abs_eq_natAbs]
      exact_mod_cast hle
    have hvalue : |value b| < |value a| := by
      have hpos : (0 : ℚ) < 10 ^ expo b := by positivity
      have hpow : (10 : ℚ) ^ expo b ≤ 10 ^ (expo a - j) := zpow_le_zpow_right₀ (by norm_num) (by omega)
      have hlt : ((|coef b| : Int) : ℚ) < ((|10 ^ j * coef a| : Int) : ℚ) := Int.cast_lt.2 (hsmall.trans_lt hbig)
      have ha : |value a| = ((|10 ^ j * coef a| : Int) : ℚ) * (10 : ℚ) ^ (expo a - j) := by
        rw [hscale, abs_mul, abs_of_pos (show (0 : ℚ) < 10 ^ (expo a - j) by positivity), Int.cast_abs]
      rw [abs_value, ha]
      exact mul_lt_mul hlt hpow hpos (by positivity)
    rw [sign_add_of_abs_lt ((hdropped.trans hsmall).trans_lt hbig), sign_add_of_abs_lt hvalue, hscale, sign_mul_zpow]
  · have hexp : expo a - ((expo a - expo b).toNat : Int) = expo b := by omega
    have hone : tdiv (coef b) (10 ^ 0) = coef b := Int.tdiv_one _
    rw [hexp] at hscale
    rw [Nat.sub_self, hone, hscale, value, ← add_mul, ← Int.cast_add, sign_mul_zpow]

theorem add_hasSignOf_of_expo_lt {a b : Word} (ha : isnan a = false) (hb : isnan b = false) (he : expo b < expo a) :
    HasSignOf (add a b) (value a + value b) := by
  rw [add_of_expo_lt ha hb he, addAligned]
  split
  · next h0 =>
    exact .inr ⟨a, rfl, ha, by rw [value_of_coef_eq_zero h0, add_zero, sign_value]⟩
  · obtain ⟨j, hj, heq, -, hstop⟩ := scaleUp_spec inAccumulator (expo a - expo b).toNat (coef a)
    have hmin := MINE_le_expo hb
    have hmax := (expo_bounds a).2
    rw [heq]
    exact pack_hasSignOf (by omega) (by omega) (sign_aligned_sum he hj hstop)

/-- ADD never changes the sign of the sum, and overflows only for a sum that is not 0. -/
theorem add_hasSignOf {a b : Word} (ha : isnan a = false) (hb : isnan b = false) :
    HasSignOf (add a b) (value a + value b) := by
  rcases lt_trichotomy (expo a) (expo b) with h | h | h
  · rw [add_symm, add_comm]
    exact add_hasSignOf_of_expo_lt hb ha h
  · have hmin := MINE_le_expo ha
    have hmax := (expo_bounds a).2
    have hsum : SignType.sign (coef a + coef b) = SignType.sign (value a + value b) := by
      rw [value, value, ← h, ← add_mul, ← Int.cast_add, sign_mul_zpow]
    rw [add_of_expo_eq ha hb h]
    split
    · next hr => exact .inr ⟨_, rfl, isnan_word_expo _ ha, by rw [coef_word hr, hsum]⟩
    · exact pack_hasSignOf hmin hmax hsum
  · exact add_hasSignOf_of_expo_lt ha hb h

/-- NEG of any coefficient but `MINC` is exact. -/
theorem neg_exact {b : Word} (hn : isnan b = false) (hmin : coef b ≠ MINC) :
    ∃ n, neg b = ⟨n, FlagSet.none⟩ ∧ isnan n = false ∧ value n = -value b := by
  by_cases h0 : coef b = 0
  · refine ⟨ZERO, neg_of_coef_eq_zero hn h0, rfl, ?_⟩
    rw [value_of_coef_eq_zero h0, value_of_coef_eq_zero coef_ZERO, neg_zero]
  · refine ⟨word (-coef b) (expo b), neg_of_coef_ne hn h0 hmin, isnan_word_expo _ hn, ?_⟩
    rw [value_word (neg_coef_in_range hmin) (MINE_le_expo hn) (expo_bounds b).2, value]
    push_cast
    ring

/-- The difference has the sign of the true one (R90 corner case (d)). -/
theorem sub_hasSignOf {a b : Word} (ha : isnan a = false) (hb : isnan b = false) (hmin : coef b ≠ MINC) :
    HasSignOf (sub a b) (value a - value b) := by
  obtain ⟨n, hneg, hn, hv⟩ := neg_exact hb hmin
  rw [sub_eq_add_of_neg ha hn hneg, sub_eq_add_neg, ← hv]
  exact add_hasSignOf ha hn

/-! ### EQ and CMP by the word of SUB -/

theorem iszero_NAN : iszero NAN = false := rfl

theorem exec_eqWords (a b : Word) (s : State) :
    exec (.eq a b) s = .next (s.offer (placeTruth (eqWords a b)) 0#4) := rfl

theorem exec_cmpWords (a b : Word) (s : State) :
    exec (.cmp a b) s = .next (s.offer (placeOrdering (cmpWords a b)) 0#4) := rfl

theorem decode_eq (p : Port) (q : BitVec 64) : decode ⟨0x20#8, p, q⟩ = .ok (.eq (operandD p) q) := rfl

theorem decode_cmp (p : Port) (q : BitVec 64) : decode ⟨0x21#8, p, q⟩ = .ok (.cmp (operandD p) q) := rfl

theorem eqWords_iff (a b : Word) :
    eqWords a b = true ↔ a = b ∨ (iszero a = true ∧ iszero b = true) ∨ iszero (sub a b).w = true := by
  unfold eqWords
  split
  · next h => simp [h]
  · next h =>
    split
    · next hz => simp [Bool.and_eq_true_iff.1 hz]
    · next hz =>
      rw [Bool.and_eq_true] at hz
      simp [h, hz]

/-- The order that CMP takes from the word of a difference (R91). -/
def orderOf (w : Word) : Ordering4 := if iszero w then .equal else if 0 < coef w then .greater else .less

theorem cmpWords_self (a : Word) : cmpWords a a = .equal := if_pos rfl

theorem cmpWords_of_isnan {a b : Word} (hne : a ≠ b) (h : isnan a = true ∨ isnan b = true) :
    cmpWords a b = .unordered := by
  rw [cmpWords, if_neg hne, if_pos (by simpa using h)]

theorem cmpWords_of_ne {a b : Word} (hne : a ≠ b) (ha : isnan a = false) (hb : isnan b = false) :
    cmpWords a b = orderOf (sub a b).w := by
  rw [cmpWords, if_neg hne, if_neg (by simp [ha, hb])]; rfl

theorem orderOf_eq_equal_iff (w : Word) : orderOf w = .equal ↔ iszero w = true := by
  unfold orderOf
  split_ifs with h1 h2 <;> simp [h1]

theorem orderOf_NAN : orderOf NAN = .less := by decide

/-- A NaN operand makes the difference a NaN, which is no zero. -/
theorem iszero_sub_of_isnan {a b : Word} (h : isnan a = true ∨ isnan b = true) : iszero (sub a b).w = false := by
  rw [sub_of_isnan h]; rfl

theorem not_iszero_of_isnan {a : Word} (h : isnan a = true) : iszero a = false :=
  Bool.eq_false_iff.2 fun hz => by rw [not_isnan_of_iszero hz] at h; cases h

theorem eqWords_of_isnan {a b : Word} (hne : a ≠ b) (h : isnan a = true ∨ isnan b = true) : eqWords a b = false := by
  rw [Bool.eq_false_iff, ne_eq, eqWords_iff, iszero_sub_of_isnan h]
  rintro (hab | ⟨hza, hzb⟩ | hz)
  · exact hne hab
  · rcases h with h | h
    · rw [not_iszero_of_isnan h] at hza; cases hza
    · rw [not_iszero_of_isnan h] at hzb; cases hzb
  · cases hz

/-- Settles O32. -/
theorem nanComparesOnlyToItself : Obligations.NanComparesOnlyToItself := by
  refine ⟨fun a s => ⟨?_, ?_⟩, fun a b s hne h => ⟨?_, ?_⟩⟩
  · rw [exec_eqWords, (eqWords_iff a a).2 (.inl rfl)]; rfl
  · rw [exec_cmpWords, cmpWords_self]; rfl
  · rw [exec_eqWords, eqWords_of_isnan hne h]; rfl
  · rw [exec_cmpWords, cmpWords_of_isnan hne h]; rfl

/-! ### The sign of the difference decides -/

theorem iszero_sub_iff {a b : Word} (ha : isnan a = false) (hb : isnan b = false) (hmin : coef b ≠ MINC) :
    iszero (sub a b).w = true ↔ value a = value b := by
  rcases sub_hasSignOf ha hb hmin with ⟨hp, hne⟩ | ⟨w, hp, hn, hs⟩
  · rw [hp, iszero_NAN]
    exact iff_of_false Bool.false_ne_true (sub_ne_zero.1 hne)
  · rw [hp, iszero_iff_coef_of_not_isnan hn, ← sign_eq_zero_iff, hs, sign_eq_zero_iff, sub_eq_zero]

theorem iszero_sub_of_iszero {a b : Word} (ha : iszero a = true) (hb : iszero b = true) :
    iszero (sub a b).w = true := by
  obtain ⟨hca, -⟩ := (iszero_iff a).1 ha
  obtain ⟨hcb, -⟩ := (iszero_iff b).1 hb
  rw [iszero_sub_iff (not_isnan_of_iszero ha) (not_isnan_of_iszero hb) (by rw [hcb]; decide),
    value_of_coef_eq_zero hca, value_of_coef_eq_zero hcb]

/-- The test for two zeros adds nothing to the other two. -/
theorem eqWords_iff_sub (a b : Word) : eqWords a b = true ↔ a = b ∨ iszero (sub a b).w = true := by
  rw [eqWords_iff]
  refine or_congr_right ⟨?_, .inr⟩
  rintro (⟨hza, hzb⟩ | hz)
  · exact iszero_sub_of_iszero hza hzb
  · exact hz

theorem cmpWords_eq_equal_iff (a b : Word) : cmpWords a b = .equal ↔ a = b ∨ iszero (sub a b).w = true := by
  by_cases hne : a = b
  · subst hne
    simp [cmpWords_self]
  by_cases hn : isnan a = true ∨ isnan b = true
  · rw [cmpWords_of_isnan hne hn, iszero_sub_of_isnan hn]
    simp [hne]
  · obtain ⟨ha, hb⟩ : isnan a = false ∧ isnan b = false := by simpa using hn
    rw [cmpWords_of_ne hne ha hb, orderOf_eq_equal_iff]
    simp [hne]

theorem eqWords_iff_cmpWords (a b : Word) : eqWords a b = true ↔ cmpWords a b = .equal := by
  rw [eqWords_iff_sub, cmpWords_eq_equal_iff]

/-- The bundle on the ports shows the result. -/
theorem offer_inj {s : State} {r r' : Port} {f f' : FlagBits} :
    (Host.Outcome.next (s.offer r f) : Host.Outcome State Fault Refusal) = .next (s.offer r' f') ↔ r = r' ∧ f = f' := by
  refine ⟨fun h => ?_, fun ⟨hr, hf⟩ => by rw [hr, hf]⟩
  have hs := Host.Outcome.next.inj h
  exact ⟨congrArg State.rspR hs, congrArg State.rspFlags hs⟩

theorem placeTruth_eq_one_iff (t : Bool) : placeTruth t = 1#128 ↔ t = true := by cases t <;> decide

theorem placeTruth_eq_zero_iff (t : Bool) : placeTruth t = 0#128 ↔ t = false := by cases t <;> decide

theorem placeOrdering_eq_zero_iff (o : Ordering4) : placeOrdering o = 0#128 ↔ o = .equal := by cases o <;> decide

/-- Settles O29: EQ and CMP both test for identical words and for a zero difference. -/
theorem eqAgreesWithCmp : Obligations.EqAgreesWithCmp := by
  intro a b s
  simp only [exec_eqWords, exec_cmpWords, ne_eq, offer_inj, and_true, placeTruth_eq_one_iff, placeTruth_eq_zero_iff,
    placeOrdering_eq_zero_iff, ← eqWords_iff_cmpWords, Bool.not_eq_true]

/-! ### A second operand with the least coefficient -/

/-- The word whose negation is the rounded negation of `(MINC, e)` (R102). -/
theorem neg_roundedMinc {b : Word} (hb : isnan b = false) (hc : coef b = MINC) (he : expo b < MAXE) :
    neg b = neg (word (-3602879701896397) (expo b + 1)) ∧ isnan (word (-3602879701896397) (expo b + 1)) = false ∧
      coef (word (-3602879701896397) (expo b + 1)) = -3602879701896397 := by
  have hmin := MINE_le_expo hb
  have hr : inCoefRange (-3602879701896397) = true := by decide
  have hcoef := coef_word hr (expo b + 1)
  have hexpo := expo_word_of_in_range (-3602879701896397) (e := expo b + 1) (by omega) (by omega)
  have hn := isnan_word_of_in_range (-3602879701896397) (e := expo b + 1) (by omega) (by omega)
  refine ⟨?_, hn, hcoef⟩
  rw [neg_of_coef_eq_MINC hb hc, pack_neg_MINC_of_lt hmin he,
    neg_of_coef_ne hn (by rw [hcoef]; decide) (by rw [hcoef]; decide), hcoef, hexpo, neg_neg]

theorem sub_congr_right {a b b' : Word} (hb : isnan b = false) (hb' : isnan b' = false) (h : neg b = neg b') :
    sub a b = sub a b' := by
  rw [sub, sub, hb, hb', h]

/-- Identity with the other word gives a zero difference too, so the test for it can be left out. -/
theorem iszero_sub_self {b : Word} (hb : isnan b = false) (hmin : coef b ≠ MINC) : iszero (sub b b).w = true :=
  (iszero_sub_iff hb hb hmin).2 rfl

theorem eqWords_eq_iszero_sub {a b : Word} (hb : isnan b = false) (h : a ≠ b ∨ coef b ≠ MINC) :
    eqWords a b = iszero (sub a b).w := by
  rw [Bool.eq_iff_iff, eqWords_iff_sub]
  refine ⟨?_, .inr⟩
  rintro (rfl | hz)
  · exact iszero_sub_self hb (h.resolve_left fun hne => hne rfl)
  · exact hz

theorem cmpWords_eq_orderOf_sub {a b : Word} (ha : isnan a = false) (hb : isnan b = false)
    (h : a ≠ b ∨ coef b ≠ MINC) : cmpWords a b = orderOf (sub a b).w := by
  by_cases hne : a = b
  · subst hne
    rw [cmpWords_self, eq_comm, orderOf_eq_equal_iff]
    exact iszero_sub_self hb (h.resolve_left fun hne => hne rfl)
  · exact cmpWords_of_ne hne ha hb

theorem sub_roundedMinc (a : Word) {b : Word} (hb : isnan b = false) (hc : coef b = MINC) (he : expo b < MAXE) :
    sub a b = sub a (word (-3602879701896397) (expo b + 1)) := by
  obtain ⟨hneg, hn, -⟩ := neg_roundedMinc hb hc he
  exact sub_congr_right hb hn hneg

theorem sub_of_minc_overflow {a b : Word} (ha : isnan a = false) (hb : isnan b = false) (hc : coef b = MINC)
    (he : expo b = MAXE) : sub a b = ⟨NAN, FlagSet.overflow⟩ :=
  sub_of_neg_overflow ha (by rw [neg_of_coef_eq_MINC hb hc, he, pack_neg_MINC_MAXE])

/-! ### The true order -/

/-- Settles O30: the difference is zero exactly for equal numbers, and a second `MINC` is read through its rounded
negation. -/
theorem eqIsExact : Obligations.EqIsExact := by
  refine ⟨decode_eq, fun a b s => ⟨(sub a b).w, wordFlags (sub a b), rfl, ?bySub⟩, ?exact, ?minc⟩
  case bySub => rw [exec_eqWords, placeTruth_of_iff (eqWords_iff a b)]
  case exact =>
    intro a b s ha hb hmin
    rw [exec_eqWords, eqWords_eq_iszero_sub hb (.inr hmin), placeTruth_of_iff (iszero_sub_iff ha hb hmin)]
  case minc =>
    intro a b s ha hb hc hne
    refine ⟨fun he => ?_, fun he => ?_⟩
    · obtain ⟨-, hn, hcoef⟩ := neg_roundedMinc hb hc he
      rw [exec_eqWords, exec_eqWords, eqWords_eq_iszero_sub hb (.inl hne),
        eqWords_eq_iszero_sub hn (.inr (by rw [hcoef]; decide)), sub_roundedMinc a hb hc he]
    · rw [exec_eqWords, eqWords_eq_iszero_sub hb (.inl hne), sub_of_minc_overflow ha hb hc he]; rfl

/-- The order of two numbers, from the sign of their difference. -/
theorem placeOrdering_orderOf {a b w : Word} (hn : isnan w = false)
    (hs : SignType.sign (coef w) = SignType.sign (value a - value b)) :
    placeOrdering (orderOf w) = if value a = value b then 0#128 else if value b < value a then 1#128 else 2#128 := by
  have hzero : iszero w = true ↔ value a = value b := by
    rw [iszero_iff_coef_of_not_isnan hn, ← sign_eq_zero_iff, hs, sign_eq_zero_iff, sub_eq_zero]
  have hpos : 0 < coef w ↔ value b < value a := by
    rw [← sign_eq_one_iff, hs, sign_eq_one_iff, sub_pos]
  simp only [orderOf, hzero, hpos, apply_ite placeOrdering]
  rfl

/-- CMP on the port, for all words, by the word of SUB (R91). -/
theorem placeOrdering_cmpWords (a b : Word) :
    placeOrdering (cmpWords a b) =
      if a = b then 0#128
      else if isnan a = true ∨ isnan b = true then 3#128
      else if iszero (sub a b).w = true then 0#128
      else if 0 < coef (sub a b).w then 1#128
      else 2#128 := by
  simp only [cmpWords, Bool.or_eq_true, apply_ite placeOrdering]
  rfl

theorem cmpWords_of_sub_overflow {a b : Word} (hne : a ≠ b) (ha : isnan a = false) (hb : isnan b = false)
    {f : FlagSet} (h : sub a b = ⟨NAN, f⟩) : cmpWords a b = .less := by
  rw [cmpWords_of_ne hne ha hb, h, orderOf_NAN]

/-- Settles O31: the sign of the difference, and an overflow without a sign reads as Less. -/
theorem cmpIsTheTrueOrder : Obligations.CmpIsTheTrueOrder := by
  refine ⟨decode_cmp, fun a b s => ⟨(sub a b).w, wordFlags (sub a b), rfl, ?bySub⟩, ?order, ?minc⟩
  case bySub => rw [exec_cmpWords, placeOrdering_cmpWords]
  case order =>
    intro a b s ha hb hmin
    refine ⟨fun ⟨hover, hne⟩ => ?_, fun hnot => ?_⟩
    · obtain ⟨hsub, -⟩ := answer_of_answerD_eq hover
      rw [exec_cmpWords, cmpWords_of_sub_overflow hne ha hb hsub]; rfl
    · rw [exec_cmpWords]
      by_cases hab : a = b
      · subst hab
        rw [cmpWords_self, if_pos rfl]; rfl
      rcases sub_hasSignOf ha hb hmin with ⟨hp, -⟩ | ⟨w, hp, hn, hs⟩
      · exact absurd ⟨by rw [exec_sub, hp, answerD_overflow], hab⟩ hnot
      · rw [cmpWords_of_ne hab ha hb, hp, placeOrdering_orderOf hn hs]
  case minc =>
    intro a b s ha hb hc hne
    refine ⟨fun he => ?_, fun he => ?_⟩
    · obtain ⟨-, hn, hcoef⟩ := neg_roundedMinc hb hc he
      rw [exec_cmpWords, exec_cmpWords, cmpWords_of_ne hne ha hb,
        cmpWords_eq_orderOf_sub ha hn (.inr (by rw [hcoef]; decide)), sub_roundedMinc a hb hc he]
    · rw [exec_cmpWords, cmpWords_of_sub_overflow hne ha hb (sub_of_minc_overflow ha hb hc he)]; rfl

end Sys2Proof.Machine
end

section
/-! Proofs of the rest of the derived family (43_derived.md R122 to R126): ISINT, FLOOR, CEIL and ROUND, and what a NaN
operand gives (60_exceptions.md R186). -/

namespace Sys2Proof.Machine

/-! ### Multiples of a power of ten, packed -/

/-- A least lift exists wherever some number of divisions brings the coefficient into range. -/
theorem exists_isLeastLift {c : Int} {n : Nat} (hn : 1 ≤ n) (h : inCoefRange (tdiv c (10 ^ n)) = true) :
    ∃ j, j ≤ n ∧ IsLeastLift c j := by
  have hex : ∃ i, 1 ≤ i ∧ inCoefRange (tdiv c (10 ^ i)) = true := ⟨n, hn, h⟩
  refine ⟨Nat.find hex, Nat.find_min' hex ⟨hn, h⟩, (Nat.find_spec hex).1, (Nat.find_spec hex).2, fun i hi hlt => ?_⟩
  exact Bool.eq_false_iff.2 fun hr => Nat.find_min hex hlt ⟨hi, hr⟩

theorem tdiv_mul_ten_pow (k : Int) (n : Nat) : tdiv (k * 10 ^ n) (10 ^ n) = k :=
  Int.mul_tdiv_cancel k (by positivity)

/-- A lift of a multiple of `10^n` to a coefficient in range takes at most `n` divisions and rounds nothing. -/
theorem pack_mul_ten_pow {k e : Int} {n : Nat} (hk : inCoefRange k = true) (h1 : MINE ≤ e) (h2 : e + n ≤ MAXE) :
    ∃ w : Word, pack (k * 10 ^ n) e = ⟨w, FlagSet.none⟩ ∧ isnan w = false ∧
      value w = ((k * 10 ^ n : Int) : ℚ) * (10 : ℚ) ^ e := by
  cases hr : inCoefRange (k * 10 ^ n) with
  | true => exact pack_exact hr h1 (by omega)
  | false =>
    have hn : 1 ≤ n := Nat.one_le_iff_ne_zero.2 fun h0 => by simp [h0, hk] at hr
    obtain ⟨j, hj, hlift⟩ := exists_isLeastLift hn (by rwa [tdiv_mul_ten_pow])
    have hsplit : k * 10 ^ n = k * 10 ^ (n - j) * 10 ^ j := by rw [mul_assoc, ← pow_add, Nat.sub_add_cancel hj]
    have hquot : roundQuotient (k * 10 ^ n) j = k * 10 ^ (n - j) := by
      rw [hsplit, roundQuotient_mul_ten_pow _ hlift.pos]
    have hin : inCoefRange (k * 10 ^ (n - j)) = true := by
      have htdiv := hlift.inRange
      rwa [hsplit, tdiv_mul_ten_pow] at htdiv
    obtain ⟨w, hp, hnan, hv⟩ := pack_exact hin (e := e + j) (by omega) (by omega)
    refine ⟨w, by rw [pack_lift hr hlift (by omega), hquot, hp], hnan, ?_⟩
    rw [hv, hsplit, ten_zpow_add_natCast]
    push_cast
    ring

/-! ### ISINT -/

theorem exec_isint (a : Word) (s : State) :
    exec (.isint a) s = .next (s.offer (placeTruth (isInteger a)) 0#4) := rfl

/-- At an exponent below 0 a word stands for its coefficient over a power of ten. -/
theorem value_eq_div {a : Word} (he : expo a ≤ 0) :
    value a = (coef a : ℚ) / ((10 ^ (-expo a).toNat : Nat) : ℚ) := by
  have hexp : expo a = -((-expo a).toNat : Int) := by omega
  rw [value, div_eq_mul_inv]
  congr 1
  conv_lhs => rw [hexp]
  rw [zpow_neg, zpow_natCast]
  push_cast
  rfl

/-- At an exponent of 0 or more a word stands for an integer. -/
theorem value_eq_intCast {a : Word} (he : 0 ≤ expo a) : value a = ((coef a * 10 ^ (expo a).toNat : Int) : ℚ) := by
  have hexp : (10 : ℚ) ^ expo a = 10 ^ (expo a).toNat := by
    rw [← zpow_natCast, Int.toNat_of_nonneg he]
  rw [value, hexp]
  push_cast
  rfl

theorem value_integral_iff_dvd {a : Word} (he : expo a ≤ 0) :
    (∃ z : Int, value a = z) ↔ (10 : Int) ^ (-expo a).toNat ∣ coef a := by
  have hne : ((10 ^ (-expo a).toNat : Nat) : ℚ) ≠ 0 := by positivity
  have hcast (z : Int) : (z : ℚ) * ((10 ^ (-expo a).toNat : Nat) : ℚ) = ((10 ^ (-expo a).toNat * z : Int) : ℚ) := by
    push_cast; ring
  refine exists_congr fun z => ?_
  rw [value_eq_div he, div_eq_iff hne, hcast, Int.cast_inj]

theorem trem_eq_zero_iff (x y : Int) : trem x y = 0 ↔ y ∣ x := by
  rw [Int.dvd_iff_tmod_eq_zero, Int.tmod_def]; rfl

theorem isInteger_iff (a : Word) : isInteger a = true ↔ isnan a = false ∧ ∃ z : Int, value a = z := by
  unfold isInteger
  split
  · next hn => simp [hn]
  next hn =>
  rw [Bool.not_eq_true] at hn
  simp only [hn, true_and]
  split
  · next hlow =>
    obtain ⟨he, h0⟩ := hlow
    rw [value_integral_iff_dvd (by omega)]
    refine iff_of_false Bool.false_ne_true fun hdvd => h0 (Int.eq_zero_of_abs_lt_dvd hdvd ?_)
    have hpow : (10 : Int) ^ 17 ≤ 10 ^ (-expo a).toNat := pow_le_pow_right₀ (by decide) (by omega)
    have hb := coef_bounds a
    simp only [MINC, MAXC] at hb
    rw [abs_lt]
    omega
  next hlow =>
  split
  · next hint =>
    refine iff_of_true rfl ?_
    rcases hint with he | h0
    · exact ⟨_, value_eq_intCast he⟩
    · exact ⟨0, by rw [value_of_coef_eq_zero h0, Int.cast_zero]⟩
  · next hint => rw [decide_eq_true_iff, trem_eq_zero_iff, value_integral_iff_dvd (by omega)]

/-- Settles O45. -/
theorem isintTestsIntegrality : Obligations.IsintTestsIntegrality := by
  intro a s
  refine ⟨fun h => ?_, fun h => ?_⟩
  · rw [exec_isint, (isInteger_iff a).2 h]; rfl
  · rw [exec_isint, Bool.eq_false_iff.2 (mt (isInteger_iff a).1 h)]; rfl

/-! ### The magnitudes that FLOOR and CEIL pack -/

theorem ediv_eq_of_bounds {c s k : Int} (hs : 0 < s) (h1 : k * s ≤ c) (h2 : c < k * s + s) : c / s = k :=
  ((Int.ediv_emod_unique hs).2 ⟨show c - k * s + s * k = c by ring, by omega, by omega⟩).1

/-- The greatest multiple of `s` not above `c` is the multiple less than one unit below it. -/
theorem ediv_mul_eq_of_dvd {c s x : Int} (hs : 0 < s) (hdvd : s ∣ x) (hle : x ≤ c) (hlt : c < x + s) :
    c / s * s = x := by
  obtain ⟨k, rfl⟩ := hdvd
  rw [mul_comm s k] at hle hlt
  rw [ediv_eq_of_bounds hs hle hlt, mul_comm]

/-- With its sign back on, the magnitude of FLOOR is the greatest multiple not above the coefficient (R123). -/
theorem floorMagnitude_signed (c : Int) {s : Int} (hs : 0 < s) :
    (if decide (c < 0) = true then -floorMagnitude c.natAbs s (decide (c < 0))
      else floorMagnitude c.natAbs s (decide (c < 0))) = c / s * s := by
  have hmod := Int.emod_nonneg (c.natAbs : Int) hs.ne'
  have hmodlt := Int.emod_lt_of_pos (c.natAbs : Int) hs
  have hdvd : s ∣ (c.natAbs : Int) - c.natAbs % s := Int.dvd_self_sub_emod
  symm
  by_cases hc : c < 0
  · have habs : (c.natAbs : Int) = -c := by omega
    simp only [hc, decide_true, if_true, floorMagnitude]
    split
    · next h0 =>
      rw [h0, sub_zero] at hdvd
      exact ediv_mul_eq_of_dvd hs (Int.dvd_neg.2 hdvd) (by omega) (by omega)
    · next h0 => exact ediv_mul_eq_of_dvd hs (Int.dvd_neg.2 (Int.dvd_add hdvd (Int.dvd_refl s))) (by omega) (by omega)
  · have habs : (c.natAbs : Int) = c := by omega
    simp only [hc, decide_false, Bool.false_eq_true, if_false, floorMagnitude]
    split
    · next h0 =>
      rw [h0, sub_zero] at hdvd
      exact ediv_mul_eq_of_dvd hs hdvd (by omega) (by omega)
    · next h0 => exact ediv_mul_eq_of_dvd hs hdvd (by omega) (by omega)

/-- CEIL rounds a magnitude as FLOOR rounds that of the opposite sign (R124). -/
theorem ceilMagnitude_eq_floorMagnitude (m s : Int) (negative : Bool) :
    ceilMagnitude m s negative = floorMagnitude m s (!negative) := by
  cases negative with
  | false => simp only [ceilMagnitude, floorMagnitude, Bool.not_false, if_true, Bool.false_eq_true, if_false]; ring_nf
  | true => simp only [ceilMagnitude, floorMagnitude, Bool.not_true, if_true, Bool.false_eq_true, if_false]; ring_nf

theorem ceilMagnitude_signed (c : Int) {s : Int} (hs : 0 < s) :
    (if decide (c < 0) = true then -ceilMagnitude c.natAbs s (decide (c < 0))
      else ceilMagnitude c.natAbs s (decide (c < 0))) = -(-c / s * s) := by
  rw [← floorMagnitude_signed (-c) hs, ceilMagnitude_eq_floorMagnitude, Int.natAbs_neg]
  rcases lt_trichotomy c 0 with hc | rfl | hc
  · simp [hc, hc.not_gt]
  · simp [floorMagnitude]
  · simp [hc, hc.not_gt]

/-! ### FLOOR and CEIL by the exponent -/

theorem exec_floor (a : Word) (s : State) : exec (.floor a) s = answerD (floorWord a) s := rfl

theorem exec_ceil (a : Word) (s : State) : exec (.ceil a) s = answerD (ceilWord a) s := rfl

theorem decode_floor (p : Port) (q : BitVec 64) : decode ⟨0x43#8, p, q⟩ = .ok (.floor (operandD p)) := rfl

theorem decode_ceil (p : Port) (q : BitVec 64) : decode ⟨0x44#8, p, q⟩ = .ok (.ceil (operandD p)) := rfl

theorem scaledOneOverflows_iff (e : Int) : scaledOneOverflows e = true ↔ e ≤ -19 := by
  rw [scaledOneOverflows, decide_eq_true_iff]; omega

theorem floorWord_of_isnan {a : Word} (h : isnan a = true) : floorWord a = ⟨NAN, FlagSet.none⟩ := if_pos h

theorem ceilWord_of_isnan {a : Word} (h : isnan a = true) : ceilWord a = ⟨NAN, FlagSet.none⟩ := if_pos h

theorem floorWord_of_nonneg {a : Word} (hn : isnan a = false) (he : 0 ≤ expo a) : floorWord a = ⟨a, FlagSet.none⟩ := by
  rw [floorWord, hn, if_neg Bool.false_ne_true, if_pos he]

theorem ceilWord_of_nonneg {a : Word} (hn : isnan a = false) (he : 0 ≤ expo a) : ceilWord a = ⟨a, FlagSet.none⟩ := by
  rw [ceilWord, hn, if_neg Bool.false_ne_true, if_pos he]

theorem floorWord_of_collapse {a : Word} (hn : isnan a = false) (he : expo a ≤ -19) :
    floorWord a = ⟨if coef a < 0 then word (-1) 0 else ZERO, FlagSet.none⟩ := by
  rw [floorWord, hn, if_neg Bool.false_ne_true, if_neg (by omega), if_pos ((scaledOneOverflows_iff _).2 he)]
  rcases lt_trichotomy (coef a) 0 with h | h | h
  · rw [if_neg h.ne, if_pos h, if_pos h]
  · rw [if_pos h, if_neg h.not_lt]
  · rw [if_neg h.ne', if_neg h.not_gt, if_neg h.not_gt]

theorem ceilWord_of_collapse {a : Word} (hn : isnan a = false) (he : expo a ≤ -19) :
    ceilWord a = ⟨if 0 < coef a then word 1 0 else ZERO, FlagSet.none⟩ := by
  rw [ceilWord, hn, if_neg Bool.false_ne_true, if_neg (by omega), if_pos ((scaledOneOverflows_iff _).2 he)]
  rcases lt_trichotomy (coef a) 0 with h | h | h
  · rw [if_neg h.ne, if_pos h, if_neg h.not_gt]
  · rw [if_pos h, if_neg h.not_gt]
  · rw [if_neg h.ne', if_neg h.not_gt, if_pos h]

theorem floorWord_of_between {a : Word} (hn : isnan a = false) (h1 : -19 < expo a) (h2 : expo a < 0) :
    floorWord a = pack (coef a / 10 ^ (-expo a).toNat * 10 ^ (-expo a).toNat) (expo a) := by
  rw [floorWord, hn, if_neg Bool.false_ne_true, if_neg (by omega), if_neg (by rw [scaledOneOverflows_iff]; omega),
    packSigned, floorMagnitude_signed _ (by positivity)]

theorem ceilWord_of_between {a : Word} (hn : isnan a = false) (h1 : -19 < expo a) (h2 : expo a < 0) :
    ceilWord a = pack (-(-coef a / 10 ^ (-expo a).toNat) * 10 ^ (-expo a).toNat) (expo a) := by
  rw [ceilWord, hn, if_neg Bool.false_ne_true, if_neg (by omega), if_neg (by rw [scaledOneOverflows_iff]; omega),
    packSigned, ceilMagnitude_signed _ (by positivity), neg_mul]

theorem floor_value {a : Word} (he : expo a ≤ 0) : ⌊value a⌋ = coef a / 10 ^ (-expo a).toNat := by
  rw [value_eq_div he, Rat.floor_intCast_div_natCast]
  push_cast
  rfl

theorem ceil_value {a : Word} (he : expo a ≤ 0) : ⌈value a⌉ = -(-coef a / 10 ^ (-expo a).toNat) := by
  rw [value_eq_div he, Rat.ceil_intCast_div_natCast]
  push_cast
  rfl

/-- A floored quotient lies between the dividend and 0. -/
theorem ediv_between (c : Int) {s : Int} (hs : 0 < s) :
    (0 ≤ c / s ∧ c / s ≤ c) ∨ (c ≤ c / s ∧ c / s ≤ 0) := by
  rcases le_or_gt 0 c with hc | hc
  · exact .inl ⟨Int.ediv_nonneg hc hs.le, Int.ediv_le_self s hc⟩
  · exact .inr ⟨(Int.le_ediv_iff_mul_le hs).2 (mul_le_of_one_le_right hc.le hs), (Int.ediv_neg_of_neg_of_pos hc hs).le⟩

theorem inCoefRange_ediv (a : Word) (n : Nat) :
    inCoefRange (coef a / 10 ^ n) = true ∧ inCoefRange (-(-coef a / 10 ^ n)) = true := by
  have hb := coef_bounds a
  have hfloor := ediv_between (coef a) (show (0 : Int) < 10 ^ n by positivity)
  have hceil := ediv_between (-coef a) (show (0 : Int) < 10 ^ n by positivity)
  simp only [inCoefRange_iff, MINC, MAXC] at hb ⊢
  omega

/-- A collapsed operand lies strictly between -1 and 1. -/
theorem abs_coef_lt_of_collapse {a : Word} (he : expo a ≤ -19) : |coef a| < 10 ^ (-expo a).toNat := by
  have hpow : (10 : Int) ^ 19 ≤ 10 ^ (-expo a).toNat := pow_le_pow_right₀ (by decide) (by omega)
  have hb := coef_bounds a
  simp only [MINC, MAXC] at hb
  rw [abs_lt]
  omega

theorem value_word_zero_expo {c : Int} (hc : inCoefRange c = true) : value (word c 0) = c := by
  rw [value_word hc (by decide) (by decide), zpow_zero, mul_one]

/-- The packed multiple of `10^(-expo)` stands for its quotient. -/
theorem pack_scaled_integer {k e : Int} (hk : inCoefRange k = true) (h1 : -19 < e) (h2 : e < 0) :
    ∃ w : Word, pack (k * 10 ^ (-e).toNat) e = ⟨w, FlagSet.none⟩ ∧ isnan w = false ∧ value w = k := by
  obtain ⟨w, hp, hn, hv⟩ := pack_mul_ten_pow (n := (-e).toNat) hk (show MINE ≤ e by simp only [MINE]; omega)
    (by simp only [MAXE]; omega)
  refine ⟨w, hp, hn, ?_⟩
  have hunit : (10 : ℚ) ^ (-e).toNat * (10 : ℚ) ^ e = 1 := by
    rw [← zpow_natCast, ← zpow_add₀ (by norm_num), Int.toNat_of_nonneg (by omega), neg_add_cancel, zpow_zero]
  rw [hv]
  push_cast
  rw [mul_assoc, hunit, mul_one]

theorem floorWord_exact {a : Word} (hn : isnan a = false) :
    ∃ w : Word, floorWord a = ⟨w, FlagSet.none⟩ ∧ isnan w = false ∧ value w = ((⌊value a⌋ : Int) : ℚ) := by
  rcases lt_or_ge (expo a) 0 with hneg | he
  · rw [floor_value hneg.le]
    rcases le_or_gt (expo a) (-19) with hlow | hbetween
    · refine ⟨_, floorWord_of_collapse hn hlow, by split <;> rfl, ?_⟩
      have hlt := abs_lt.1 (abs_coef_lt_of_collapse hlow)
      split
      · next hc =>
        have hfloor : coef a / 10 ^ (-expo a).toNat = -1 := ediv_eq_of_bounds (by positivity) (by omega) (by omega)
        rw [hfloor, value_word_zero_expo (by decide)]
      · next hc => rw [Int.ediv_eq_zero_of_lt (by omega) hlt.2, value_of_coef_eq_zero coef_ZERO, Int.cast_zero]
    · rw [floorWord_of_between hn hbetween hneg]
      exact pack_scaled_integer (inCoefRange_ediv a _).1 hbetween hneg
  · exact ⟨a, floorWord_of_nonneg hn he, hn, by rw [value_eq_intCast he, Int.floor_intCast]⟩

theorem ceilWord_exact {a : Word} (hn : isnan a = false) :
    ∃ w : Word, ceilWord a = ⟨w, FlagSet.none⟩ ∧ isnan w = false ∧ value w = ((⌈value a⌉ : Int) : ℚ) := by
  rcases lt_or_ge (expo a) 0 with hneg | he
  · rw [ceil_value hneg.le]
    rcases le_or_gt (expo a) (-19) with hlow | hbetween
    · refine ⟨_, ceilWord_of_collapse hn hlow, by split <;> rfl, ?_⟩
      have hlt := abs_lt.1 (abs_coef_lt_of_collapse hlow)
      split
      · next hc =>
        have hceil : -coef a / 10 ^ (-expo a).toNat = -1 := ediv_eq_of_bounds (by positivity) (by omega) (by omega)
        rw [hceil, value_word_zero_expo (by decide)]; rfl
      · next hc =>
        rw [Int.ediv_eq_zero_of_lt (by omega) (by omega), value_of_coef_eq_zero coef_ZERO, neg_zero, Int.cast_zero]
    · rw [ceilWord_of_between hn hbetween hneg]
      exact pack_scaled_integer (inCoefRange_ediv a _).2 hbetween hneg
  · exact ⟨a, ceilWord_of_nonneg hn he, hn, by rw [value_eq_intCast he, Int.ceil_intCast]⟩

/-- Settles O46: the three ranges of the exponent, and the exact floor in each. -/
theorem floorIsGreatestInteger : Obligations.FloorIsGreatestInteger := by
  refine ⟨decode_floor, fun a s hn => ⟨fun he => ?_, fun he => ?_, fun h1 h2 => ?_, ?_⟩⟩
  · rw [exec_floor, floorWord_of_nonneg hn he, answerD_of_not_isnan hn]
  · rw [exec_floor, floorWord_of_collapse hn he, answerD_of_not_isnan (by split <;> rfl)]
  · rw [exec_floor, floorWord_of_between hn h1 h2, exec_pack_eq_answerD]
  · obtain ⟨w, hw, hwn, hv⟩ := floorWord_exact hn
    exact ⟨w, by rw [exec_floor, hw, answerD_of_not_isnan hwn], hwn, hv⟩

/-- Settles O47: the three ranges of the exponent, and the exact ceiling in each. -/
theorem ceilIsLeastInteger : Obligations.CeilIsLeastInteger := by
  refine ⟨decode_ceil, fun a s hn => ⟨fun he => ?_, fun he => ?_, fun h1 h2 => ?_, ?_⟩⟩
  · rw [exec_ceil, ceilWord_of_nonneg hn he, answerD_of_not_isnan hn]
  · rw [exec_ceil, ceilWord_of_collapse hn he, answerD_of_not_isnan (by split <;> rfl)]
  · rw [exec_ceil, ceilWord_of_between hn h1 h2, exec_pack_eq_answerD]
  · obtain ⟨w, hw, hwn, hv⟩ := ceilWord_exact hn
    exact ⟨w, by rw [exec_ceil, hw, answerD_of_not_isnan hwn], hwn, hv⟩

/-! ### FLOOR and CEIL against the operand -/

theorem isInteger_of_value {w : Word} (hn : isnan w = false) {z : Int} (hv : value w = z) : isInteger w = true :=
  (isInteger_iff w).2 ⟨hn, z, hv⟩

/-- CMP of a number and one not below it is Equal or Less; an overflow reads as Less. -/
theorem cmpWords_of_value_le {a b : Word} (ha : isnan a = false) (hb : isnan b = false) (hmin : coef b ≠ MINC)
    (hle : value a ≤ value b) : cmpWords a b = .equal ∨ cmpWords a b = .less := by
  rw [cmpWords_eq_orderOf_sub ha hb (.inr hmin)]
  rcases sub_hasSignOf ha hb hmin with ⟨hp, -⟩ | ⟨w, hp, -, hs⟩
  · exact .inr (by rw [hp, orderOf_NAN])
  · have hpos : ¬ 0 < coef w := by
      rw [← sign_eq_one_iff, hs, sign_eq_one_iff, sub_pos]
      exact hle.not_gt
    rw [hp]
    cases hz : iszero w with
    | true => exact .inl ((orderOf_eq_equal_iff w).2 hz)
    | false => exact .inr (by rw [orderOf, hz, if_neg Bool.false_ne_true, if_neg hpos])

theorem eqWords_iff_value {a b : Word} (ha : isnan a = false) (hb : isnan b = false) (hmin : coef b ≠ MINC) :
    eqWords a b = true ↔ value a = value b := by
  rw [eqWords_eq_iszero_sub hb (.inr hmin), iszero_sub_iff ha hb hmin]

/-- A second operand `(MINC, e)` is compared as the multiple of `10^(e + 1)` just below its number, and at an exponent
below 0 the integers are multiples of that, so the floor is not above it. -/
theorem floor_le_roundedMinc {x : Word} (hn : isnan x = false) (hc : coef x = MINC) (he : expo x < 0) :
    ((⌊value x⌋ : Int) : ℚ) ≤ value (word (-3602879701896397) (expo x + 1)) := by
  have hmin := MINE_le_expo hn
  obtain ⟨m, hm⟩ : ∃ m : Nat, expo x = -((m + 1 : Nat) : Int) := ⟨(-expo x).toNat - 1, by omega⟩
  have hexp : (-expo x).toNat = m + 1 := by omega
  have hfloor : ⌊value x⌋ * 10 ^ m ≤ -3602879701896397 := by
    have hmul := Int.ediv_mul_le (coef x) (show (10 : Int) ^ (m + 1) ≠ 0 by positivity)
    rw [floor_value he.le, hexp]
    rw [pow_succ, ← mul_assoc, ← pow_succ, hc] at hmul
    rw [hc]
    simp only [MINC] at hmul ⊢
    omega
  have hvalue : value (word (-3602879701896397) (expo x + 1)) = ((-3602879701896397 : Int) : ℚ) / 10 ^ m := by
    have hm1 : expo x + 1 = -(m : Int) := by rw [hm]; push_cast; ring
    rw [value_word (by decide) (by omega) (by simp only [MAXE]; omega), hm1, zpow_neg, zpow_natCast]; rfl
  rw [hvalue, le_div_iff₀ (by positivity)]
  exact_mod_cast hfloor

theorem cmpWords_floor {x f : Word} (hn : isnan x = false) (hf : floorWord x = ⟨f, FlagSet.none⟩)
    (hfn : isnan f = false) (hv : value f = ((⌊value x⌋ : Int) : ℚ)) :
    cmpWords f x = .equal ∨ cmpWords f x = .less := by
  by_cases hfx : f = x
  · subst hfx
    exact .inl (cmpWords_self f)
  by_cases hc : coef x = MINC
  · have he : expo x < 0 := by
      by_contra hnonneg
      rw [floorWord_of_nonneg hn (by omega)] at hf
      exact hfx (congrArg Answer.w hf).symm
    have hmax : expo x < MAXE := he.trans (by decide)
    obtain ⟨-, hn', hcoef⟩ := neg_roundedMinc hn hc hmax
    have hmin' : coef (word (-3602879701896397) (expo x + 1)) ≠ MINC := by rw [hcoef]; decide
    rw [cmpWords_of_ne hfx hfn hn, sub_roundedMinc f hn hc hmax, ← cmpWords_eq_orderOf_sub hfn hn' (.inr hmin')]
    exact cmpWords_of_value_le hfn hn' hmin' (hv ▸ floor_le_roundedMinc hn hc he)
  · exact cmpWords_of_value_le hfn hn hc (hv ▸ Int.floor_le _)

/-- The ceiling of a word at an exponent below 0 has fewer digits than `MINC`, and `MINC` is no multiple of ten. -/
theorem coef_ceil_ne_MINC {x g : Word} (he : expo x < 0) (hv : value g = ((⌈value x⌉ : Int) : ℚ)) :
    coef g ≠ MINC := by
  intro hc
  rcases lt_or_ge (expo g) 0 with hneg | hnonneg
  · have hdvd := (value_integral_iff_dvd hneg.le).1 ⟨_, hv⟩
    have hten : (10 : Int) ∣ MINC := hc ▸ (dvd_pow_self 10 (by omega)).trans hdvd
    exact absurd hten (by decide)
  · have hceil : ⌈value x⌉ = MINC * 10 ^ (expo g).toNat := by
      rw [value_eq_intCast hnonneg, hc] at hv
      exact (Int.cast_inj.1 hv).symm
    have hpow : (1 : Int) ≤ 10 ^ (expo g).toNat := one_le_pow₀ (by decide)
    have hten : (10 : Int) ≤ 10 ^ (-expo x).toNat := by
      have hle := pow_le_pow_right₀ (show (1 : Int) ≤ 10 by decide) (show 1 ≤ (-expo x).toNat by omega)
      simpa using hle
    have hb := coef_bounds x
    have hquot := Int.ediv_mul_le (-coef x) (show (10 : Int) ^ (-expo x).toNat ≠ 0 by positivity)
    rw [ceil_value he.le] at hceil
    simp only [MINC, MAXC] at hb hceil
    nlinarith

theorem cmpWords_ceil {x g : Word} (hn : isnan x = false) (hg : ceilWord x = ⟨g, FlagSet.none⟩)
    (hgn : isnan g = false) (hv : value g = ((⌈value x⌉ : Int) : ℚ)) :
    cmpWords x g = .equal ∨ cmpWords x g = .less := by
  rcases lt_or_ge (expo x) 0 with he | he
  · exact cmpWords_of_value_le hn hgn (coef_ceil_ne_MINC he hv) (hv ▸ Int.le_ceil _)
  · rw [ceilWord_of_nonneg hn he] at hg
    obtain rfl : x = g := congrArg Answer.w hg
    exact .inl (cmpWords_self x)

theorem floor_eq_ceil_iff (v : ℚ) : ((⌊v⌋ : Int) : ℚ) = ((⌈v⌉ : Int) : ℚ) ↔ ∃ z : Int, v = z := by
  refine ⟨fun h => ⟨⌊v⌋, le_antisymm ((Int.le_ceil v).trans h.ge) (Int.floor_le v)⟩, ?_⟩
  rintro ⟨z, rfl⟩
  rw [Int.floor_intCast, Int.ceil_intCast]

theorem eqWords_floor_ceil_iff {x f g : Word} (hn : isnan x = false) (hf : floorWord x = ⟨f, FlagSet.none⟩)
    (hg : ceilWord x = ⟨g, FlagSet.none⟩) (hfn : isnan f = false) (hgn : isnan g = false)
    (hfv : value f = ((⌊value x⌋ : Int) : ℚ)) (hgv : value g = ((⌈value x⌉ : Int) : ℚ)) :
    eqWords f g = true ↔ isInteger x = true := by
  rcases lt_or_ge (expo x) 0 with he | he
  · rw [eqWords_iff_value hfn hgn (coef_ceil_ne_MINC he hgv), hfv, hgv, floor_eq_ceil_iff, isInteger_iff]
    exact (and_iff_right hn).symm
  · rw [floorWord_of_nonneg hn he] at hf
    rw [ceilWord_of_nonneg hn he] at hg
    obtain rfl : x = f := congrArg Answer.w hf
    obtain rfl : x = g := congrArg Answer.w hg
    exact iff_of_true ((eqWords_iff x x).2 (.inl rfl)) (isInteger_of_value hn (value_eq_intCast he))

theorem exec_cmp_of_equal_or_less {a b : Word} (s : State) (h : cmpWords a b = .equal ∨ cmpWords a b = .less) :
    exec (.cmp a b) s = .next (s.offer 0#128 0#4) ∨ exec (.cmp a b) s = .next (s.offer 2#128 0#4) := by
  rcases h with h | h
  · exact .inl (by rw [exec_cmpWords, h]; rfl)
  · exact .inr (by rw [exec_cmpWords, h]; rfl)

theorem exec_isint_of_value {w : Word} (hn : isnan w = false) {z : Int} (hv : value w = z) (s : State) :
    exec (.isint w) s = .next (s.offer 1#128 0#4) := by
  rw [exec_isint, isInteger_of_value hn hv]; rfl

/-- Settles O48: the exact floor and ceiling, compared by the true order. -/
theorem floorAndCeilBracketTheOperand : Obligations.FloorAndCeilBracketTheOperand := by
  intro x s hn
  obtain ⟨f, hf, hfn, hfv⟩ := floorWord_exact hn
  obtain ⟨g, hg, hgn, hgv⟩ := ceilWord_exact hn
  refine ⟨f, g, by rw [exec_floor, hf, answerD_of_not_isnan hfn], by rw [exec_ceil, hg, answerD_of_not_isnan hgn],
    hfn, hgn, exec_isint_of_value hfn hfv s, exec_isint_of_value hgn hgv s,
    exec_cmp_of_equal_or_less s (cmpWords_floor hn hf hfn hfv),
    exec_cmp_of_equal_or_less s (cmpWords_ceil hn hg hgn hgv), ?_⟩
  simp only [exec_eqWords, exec_isint, offer_inj, and_true, placeTruth_eq_one_iff]
  exact eqWords_floor_ceil_iff hn hf hg hfn hgn hfv hgv

/-! ### ROUND -/

theorem exec_round (a : Word) (t : Int) (s : State) : exec (.round a t) s = answerD (roundWord a t) s := rfl

theorem roundWord_of_isnan {a : Word} (h : isnan a = true) (t : Int) : roundWord a t = ⟨NAN, FlagSet.none⟩ := if_pos h

theorem roundWord_of_le {a : Word} {t : Int} (hn : isnan a = false) (h : t ≤ expo a) :
    roundWord a t = ⟨a, FlagSet.none⟩ := by
  rw [roundWord, hn, if_neg Bool.false_ne_true, if_pos h]

theorem roundWord_of_gt {a : Word} {t : Int} (hn : isnan a = false) (h : expo a < t) :
    roundWord a t = pack (roundDrop (coef a) (t - expo a).toNat) t := by
  rw [roundWord, hn, if_neg Bool.false_ne_true, if_neg h.not_ge]

/-- From 18 digits on a coefficient is less than half a unit, so 0 is nearest (R125). -/
theorem roundDrop_nearest (a : Word) {k : Nat} (hk : 1 ≤ k) :
    2 * |coef a - roundDrop (coef a) k * 10 ^ k| ≤ 10 ^ k ∧
    (2 * |coef a - roundDrop (coef a) k * 10 ^ k| = 10 ^ k → |coef a| < |roundDrop (coef a) k * 10 ^ k|) := by
  rw [roundDrop]
  split
  · next hfar =>
    have hpow : (10 : Int) ^ 18 ≤ 10 ^ k := pow_le_pow_right₀ (by decide) hfar
    have habs : |coef a| ≤ 36028797018963968 := by
      have hb := coef_bounds a
      simp only [MINC, MAXC] at hb
      rw [abs_le]
      omega
    have hlt : 2 * |coef a| < 10 ^ k := by omega
    rw [zero_mul, sub_zero]
    exact ⟨hlt.le, fun heq => absurd heq hlt.ne⟩
  · exact roundQuotient_nearest (coef a) hk

/-- Settles O49: the nearest multiple of the coefficient, scaled to the operand's number. -/
theorem roundTakesTheNearestMultiple : Obligations.RoundTakesTheNearestMultiple := by
  intro a t s hn
  refine ⟨fun h => by rw [exec_round, roundWord_of_le hn h, answerD_of_not_isnan hn], fun h => ?_⟩
  obtain ⟨k, hk1, rfl⟩ : ∃ k : Nat, 1 ≤ k ∧ t = expo a + k := ⟨(t - expo a).toNat, by omega, by omega⟩
  have hk : (expo a + k - expo a).toNat = k := by omega
  obtain ⟨hnear, htie⟩ := roundDrop_nearest a hk1
  have hpos : (0 : ℚ) < 10 ^ expo a := by positivity
  have herr := abs_sub_mul_zpow (coef a) (roundDrop (coef a) k) (expo a) k
  have hunit := ten_zpow_add_natCast (expo a) k
  have hnumber : |value a| = ((|coef a| : Int) : ℚ) * 10 ^ expo a := abs_value a
  have hmultiple : |(roundDrop (coef a) k : ℚ) * 10 ^ (expo a + k)| =
      ((|roundDrop (coef a) k * 10 ^ k| : Int) : ℚ) * 10 ^ expo a := by
    have hzero := abs_sub_mul_zpow 0 (roundDrop (coef a) k) (expo a) k
    simpa using hzero
  rw [← value] at herr
  refine ⟨roundDrop (coef a) k, ?_, fun heq => ?_, ?_⟩
  · have hq : ((2 * |coef a - roundDrop (coef a) k * 10 ^ k| : Int) : ℚ) ≤ ((10 ^ k : Int) : ℚ) := Int.cast_le.2 hnear
    have hscaled := mul_le_mul_of_nonneg_right hq hpos.le
    rw [herr, hunit]
    push_cast at hscaled ⊢
    linarith
  · have hint : 2 * |coef a - roundDrop (coef a) k * 10 ^ k| = 10 ^ k := by
      rw [herr, hunit] at heq
      have hcancel := mul_right_cancel₀ hpos.ne' (show
        (2 * ((|coef a - roundDrop (coef a) k * 10 ^ k| : Int) : ℚ)) * 10 ^ expo a = 10 ^ k * 10 ^ expo a by linarith)
      exact_mod_cast hcancel
    rw [hnumber, hmultiple]
    exact mul_lt_mul_of_pos_right (Int.cast_lt.2 (htie hint)) hpos
  · rw [exec_round, roundWord_of_gt hn h, hk, exec_pack_eq_answerD]

/-! ### A NaN operand -/

/-- Settles O33: the first test of each of the nine operations. -/
theorem nanOperandGivesNan : Obligations.NanOperandGivesNan := by
  refine ⟨fun a b s h => ⟨?_, ?_, ?_, ?_⟩, fun a t s h => ⟨?_, ?_, ?_, ?_, ?_⟩⟩
  · rw [exec_add, add_of_isnan h]; rfl
  · rw [exec_sub, sub_of_isnan h]; rfl
  · rw [exec_mul, mul_of_isnan h]; rfl
  · rw [exec_div, div_of_isnan h]; rfl
  · rw [exec_neg, neg_of_isnan h]; rfl
  · rw [exec_abs, absWord_of_isnan h]; rfl
  · rw [exec_floor, floorWord_of_isnan h]; rfl
  · rw [exec_ceil, ceilWord_of_isnan h]; rfl
  · rw [exec_round, roundWord_of_isnan h]; rfl

end Sys2Proof.Machine
end

section
/-! Proofs of the from-integer part of the conversion family (44_conversions.md R146 to R155, R166, R170). -/

namespace Sys2Proof.Machine

/-! ### The from-integer template -/

/-- The ten from-integer operations with one operand (R146 to R155). -/
def fromIntegerOps (v : Int) : List Instr :=
  [.fromi8 v, .fromi16 v, .fromi32 v, .fromi64 v, .fromi128 v, .fromu8 v, .fromu16 v, .fromu32 v, .fromu64 v,
    .fromu128 v]

theorem exec_fromInteger {v : Int} {i : Instr} (hi : i ∈ fromIntegerOps v) (s : State) :
    exec i s = answerD (fromInt v) s := by
  fin_cases hi <;> rfl

theorem fromInt_of_inCoefRange {v : Int} (hr : inCoefRange v = true) : fromInt v = pack v 0 := by
  have hone : tdiv v (10 ^ 0) = v := Int.tdiv_one v
  have hn : InRangeAfter v 0 0 := ⟨by rwa [hone], by decide⟩
  rw [fromInt, liftToRange_eq 0 hn (fun i hi => absurd hi (Nat.not_lt_zero i)), hone, if_pos rfl]
  rfl

/-- The template divides as often as `pack` lifts, and rounds on the same digit (R166). -/
theorem fromInt_of_lift {v : Int} {j : Nat} (hr : inCoefRange v = false) (h : IsLeastLift v j) (hj : j ≤ 127) :
    fromInt v = pack v 0 := by
  have hn : InRangeAfter v 0 j := ⟨h.inRange, by simp only [MINE]; omega⟩
  have hleast : ∀ i, i < j → ¬InRangeAfter v 0 i := by
    rintro i hi ⟨hin, -⟩
    cases i with
    | zero =>
      have hone : tdiv v (10 ^ 0) = v := Int.tdiv_one v
      rw [hone, hr] at hin; cases hin
    | succ i => rw [h.least (i + 1) (by omega) hi] at hin; cases hin
  have hpos := h.pos
  rw [fromInt, liftToRange_eq 0 hn hleast, if_neg (by omega), pack_lift hr h (by simp only [MAXE]; omega)]
  rfl

/-- A 128-bit integer has at most 39 digits, so far fewer lifts than the exponent allows. -/
theorem fromInt_eq_pack {v : Int} (h1 : -(2 : Int) ^ 127 ≤ v) (h2 : v < (2 : Int) ^ 128) : fromInt v = pack v 0 := by
  cases hr : inCoefRange v with
  | true => exact fromInt_of_inCoefRange hr
  | false =>
    have hzero : tdiv v (10 ^ 39) = 0 := tdiv_eq_zero_of_natAbs_lt (by omega)
    obtain ⟨j, hj, hlift⟩ := exists_isLeastLift (c := v) (n := 39) (by decide) (by rw [hzero]; rfl)
    exact fromInt_of_lift hr hlift (by omega)

/-- Settles O50. -/
theorem fromIntegerIsPack : Obligations.FromIntegerIsPack := by
  intro v s h1 h2 i hi
  rw [exec_fromInteger hi, fromInt_eq_pack h1 h2, exec_pack_eq_answerD]

theorem fromInt_exact {v : Int} (hr : inCoefRange v = true) : fromInt v = ⟨word v 0, FlagSet.none⟩ := by
  rw [fromInt_of_inCoefRange hr]
  by_cases h0 : v = 0
  · subst h0
    exact pack_zero 0
  · exact pack_of_in_range h0 hr (by decide) (by decide)

theorem exec_fromInteger_exact {v : Int} (hr : inCoefRange v = true) {i : Instr} (hi : i ∈ fromIntegerOps v)
    (s : State) : exec i s = .next (s.offer (placeD (word v 0)) 0#4) := by
  rw [exec_fromInteger hi, fromInt_exact hr, answerD_of_not_isnan (isnan_word_of_in_range v (by decide) (by decide))]

/-- Settles O51. -/
theorem fromIntegerKeepsWhatFits : Obligations.FromIntegerKeepsWhatFits := by
  intro v s h1 h2 i hi
  have hr : inCoefRange v = true := inCoefRange_iff.2 ⟨h1, h2⟩
  exact ⟨exec_fromInteger_exact hr hi s, value_word_zero_expo hr⟩

/-! ### There and back -/

theorem toInt_word_zero_expo {v : Int} (hr : inCoefRange v = true) : toInt (word v 0) = v := by
  have he : expo (word v 0) = 0 := expo_word v (by decide) (by decide)
  rw [toInt_eq, he, if_pos le_rfl, coef_word hr]

theorem placeSignedField_of_fits {n : Nat} {v : Int} (hn : 0 < n) (h : signedFits n v = true) :
    placeSignedField n v = BitVec.ofInt 128 v := by
  rw [placeSignedField, BitVec.signExtend, toInt_ofInt_of_signedFits hn h]

theorem placeUnsignedField_of_fits {n : Nat} {v : Int} (hn : n ≤ 128) (h : unsignedFits n v = true) :
    placeUnsignedField n v = BitVec.ofInt 128 v := by
  have hport : unsignedFits 128 v = true := by
    obtain ⟨h1, h2⟩ := unsignedFits_iff.1 h
    exact unsignedFits_iff.2 ⟨h1, h2.trans_le (pow_le_pow_right₀ (by decide) hn)⟩
  have hfield := toNat_ofInt_of_unsignedFits h
  have hwide := toNat_ofInt_of_unsignedFits hport
  refine BitVec.eq_of_toNat_eq ?_
  rw [placeUnsignedField, BitVec.toNat_setWidth_of_le hn]
  omega

/-- The word that a from-integer operation offers for an integer in coefficient range. -/
theorem eq_word_of_fromInteger {v : Int} (hr : inCoefRange v = true) {i : Instr} (hi : i ∈ fromIntegerOps v)
    {s : State} {w : Word} (h : exec i s = .next (s.offer (placeD w) 0#4)) : w = word v 0 := by
  rw [exec_fromInteger_exact hr hi, offer_inj] at h
  exact (placeD_injective h.1).symm

/-- Settles O53: the word is `(v, 0)`, whose template value is `v`, and `v` fits the field. -/
theorem integerRoundTrips : Obligations.IntegerRoundTrips := by
  intro v s w h1 h2
  have hr : inCoefRange v = true := inCoefRange_iff.2 ⟨h1, h2⟩
  have hword {i : Instr} (hi : i ∈ fromIntegerOps v) (h : exec i s = .next (s.offer (placeD w) 0#4)) :
      toInt w = v := by
    rw [eq_word_of_fromInteger hr hi h, toInt_word_zero_expo hr]
  refine ⟨fun p hp hfits hfrom => ?_, fun p hp hfits hfrom => ?_⟩
  · have hv : toInt w = v := by
      fin_cases hp <;> exact hword (by simp [fromIntegerOps]) hfrom
    have hfield : placeSignedField p.1 (toInt w) = BitVec.ofInt 128 v := by
      rw [hv]
      fin_cases hp <;> exact placeSignedField_of_fits (by simp) hfits
    rw [← hfield]
    fin_cases hp <;> rfl
  · have hv : toInt w = v := by
      fin_cases hp <;> exact hword (by simp [fromIntegerOps]) hfrom
    have hfield : placeUnsignedField p.1 (toInt w) = BitVec.ofInt 128 v := by
      rw [hv]
      fin_cases hp <;> exact placeUnsignedField_of_fits (by simp) hfits
    rw [← hfield]
    fin_cases hp <;> rfl

end Sys2Proof.Machine
end

section
/-! Proofs of the binary formats (44_conversions.md R167): the fields of a pattern, rounding to nearest even and the
product of two patterns. -/

namespace Sys2Proof.Machine

/-! ### The constants of a format -/

/-- At least two exponent bits and two bits of precision, as both formats of the unit have. -/
structure FloatFormat.Usable (F : FloatFormat) : Prop where
  two_le_w : 2 ≤ F.w
  two_le_p : 2 ≤ F.p

theorem usable_of_mem {F : FloatFormat} (h : F ∈ [binary32, binary64]) : F.Usable := by
  fin_cases h <;> exact ⟨by decide, by decide⟩

/-- The weight of the hidden bit: the least significand of a normal number. -/
def FloatFormat.hidden (F : FloatFormat) : Nat := 2 ^ (F.p - 1)

/-- The exponent of the last place on the `t`-th grid, the subnormals' and the least normals' first. -/
def FloatFormat.gridExp (F : FloatFormat) (t : Nat) : Int := F.emin + t - (F.p - 1)

theorem hidden_pos (F : FloatFormat) : 0 < F.hidden := Nat.two_pow_pos _

theorem two_hidden {F : FloatFormat} (hF : F.Usable) : 2 * F.hidden = 2 ^ F.p := by
  have hp := hF.two_le_p
  rw [FloatFormat.hidden, ← pow_succ', Nat.sub_add_cancel (by omega)]

theorem even_hidden {F : FloatFormat} (hF : F.Usable) : F.hidden % 2 = 0 := by
  have hp := hF.two_le_p
  obtain ⟨n, hn⟩ : ∃ n, F.p - 1 = n + 1 := ⟨F.p - 2, by omega⟩
  rw [FloatFormat.hidden, hn, pow_succ, Nat.mul_mod_left]

theorem cast_two_pow_w {F : FloatFormat} (hF : F.Usable) : ((2 ^ F.w : Nat) : Int) = 2 * F.bias + 2 := by
  have hw := hF.two_le_w
  obtain ⟨n, hn⟩ : ∃ n, F.w = n + 1 := ⟨F.w - 1, by omega⟩
  rw [FloatFormat.bias, hn, Nat.add_sub_cancel, pow_succ]
  push_cast
  ring

theorem one_le_bias {F : FloatFormat} (hF : F.Usable) : 1 ≤ F.bias := by
  have hw := hF.two_le_w
  have hpow : (2 : Int) ^ 1 ≤ 2 ^ (F.w - 1) := pow_le_pow_right₀ (by decide) (by omega)
  rw [FloatFormat.bias]
  omega

theorem infinity_eq (F : FloatFormat) : F.infinity = (2 ^ F.w - 1) * F.hidden := rfl

theorem two_pow_signBit {F : FloatFormat} (hF : F.Usable) : 2 ^ (F.w + F.p - 1) = 2 ^ F.w * F.hidden := by
  have hp := hF.two_le_p
  rw [FloatFormat.hidden, ← pow_add]
  congr 1
  omega

theorem infinity_lt_signBit {F : FloatFormat} (hF : F.Usable) : F.infinity < 2 ^ (F.w + F.p - 1) := by
  rw [two_pow_signBit hF, infinity_eq]
  exact Nat.mul_lt_mul_of_pos_right (Nat.sub_lt (Nat.two_pow_pos _) (by decide)) (hidden_pos F)

/-! ### The fields of a pattern -/

theorem expBits_fields {F : FloatFormat} {E M : Nat} (hE : E < 2 ^ F.w) (hM : M < F.hidden) :
    F.expBits (E * F.hidden + M) = E := by
  rw [FloatFormat.expBits, ← FloatFormat.hidden, mul_comm, Nat.mul_add_div (hidden_pos F), Nat.div_eq_of_lt hM,
    add_zero, Nat.mod_eq_of_lt hE]

theorem fracBits_fields {F : FloatFormat} {E M : Nat} (hM : M < F.hidden) :
    F.fracBits (E * F.hidden + M) = M := by
  rw [FloatFormat.fracBits, ← FloatFormat.hidden, Nat.mul_add_mod', Nat.mod_eq_of_lt hM]

theorem expBits_signed {F : FloatFormat} (hF : F.Usable) (σ : Bool) (x : Nat) :
    F.expBits (F.signed σ x) = F.expBits x := by
  cases σ with
  | false => rfl
  | true =>
    rw [FloatFormat.signed, if_pos rfl, FloatFormat.expBits, FloatFormat.expBits, two_pow_signBit hF,
      ← FloatFormat.hidden, mul_comm, Nat.mul_add_div (hidden_pos F), Nat.add_mod_left]

theorem fracBits_signed {F : FloatFormat} (hF : F.Usable) (σ : Bool) (x : Nat) :
    F.fracBits (F.signed σ x) = F.fracBits x := by
  cases σ with
  | false => rfl
  | true =>
    rw [FloatFormat.signed, if_pos rfl, FloatFormat.fracBits, FloatFormat.fracBits, two_pow_signBit hF,
      ← FloatFormat.hidden, Nat.mul_add_mod']

theorem negative_signed {F : FloatFormat} {σ : Bool} {x : Nat} (hx : x < 2 ^ (F.w + F.p - 1)) :
    F.negative (F.signed σ x) = σ := by
  cases σ with
  | false => rw [FloatFormat.signed, if_neg Bool.false_ne_true, FloatFormat.negative, Nat.div_eq_of_lt hx]; rfl
  | true =>
    rw [FloatFormat.signed, if_pos rfl, FloatFormat.negative, Nat.add_div_left _ (Nat.two_pow_pos _),
      Nat.div_eq_of_lt hx]
    rfl

theorem signed_mod {F : FloatFormat} {σ : Bool} {x : Nat} (hx : x < 2 ^ (F.w + F.p - 1)) :
    F.signed σ x % 2 ^ (F.w + F.p - 1) = x := by
  cases σ with
  | false => exact Nat.mod_eq_of_lt hx
  | true => rw [FloatFormat.signed, if_pos rfl, Nat.add_mod_left, Nat.mod_eq_of_lt hx]

/-- What a pattern stands for, by its fields (R167). -/
theorem value_signed_fields {F : FloatFormat} (hF : F.Usable) (σ : Bool) {E M : Nat} (hE : E < 2 ^ F.w)
    (hM : M < F.hidden) :
    F.value (F.signed σ (E * F.hidden + M)) =
      if E = 2 ^ F.w - 1 then (if M = 0 then .infinite σ else .nan)
      else if E = 0 then .finite σ M (F.emin - (F.p - 1))
      else .finite σ (F.hidden + M) (E - F.bias - (F.p - 1)) := by
  have hlt : E * F.hidden + M < 2 ^ (F.w + F.p - 1) := by
    rw [two_pow_signBit hF]
    calc E * F.hidden + M < (E + 1) * F.hidden := by rw [add_mul, one_mul]; omega
      _ ≤ 2 ^ F.w * F.hidden := Nat.mul_le_mul_right _ hE
  rw [FloatFormat.value, FloatFormat.significand, FloatFormat.quantum, expBits_signed hF, fracBits_signed hF,
    negative_signed hlt, expBits_fields hE hM, fracBits_fields hM]
  split_ifs <;> rfl

/-! ### Magnitudes on the grids -/

/-- A pattern without a sign lies on one grid: it counts the last places of its number from the grid's start. -/
theorem pattern_on_grid {F : FloatFormat} (hF : F.Usable) {x : Nat} (hx : x < 2 ^ (F.w + F.p - 1)) :
    ∃ t : Nat, x = t * F.hidden + F.significand x ∧ F.quantum x = F.gridExp t ∧
      F.significand x < 2 * F.hidden ∧ (t = 0 ∨ F.hidden ≤ F.significand x) := by
  have hfrac : F.fracBits x < F.hidden := Nat.mod_lt _ (hidden_pos F)
  have hE : F.expBits x = x / F.hidden := by
    rw [two_pow_signBit hF, mul_comm] at hx
    exact Nat.mod_eq_of_lt (Nat.div_lt_of_lt_mul hx)
  have hsplit : x = F.expBits x * F.hidden + F.fracBits x := by
    rw [hE, FloatFormat.fracBits, ← FloatFormat.hidden, Nat.div_add_mod']
  rw [FloatFormat.significand, FloatFormat.quantum]
  split
  · next h0 =>
    rw [h0, zero_mul, zero_add] at hsplit
    exact ⟨0, by rw [zero_mul, zero_add, ← hsplit], by rw [FloatFormat.gridExp, Nat.cast_zero, add_zero],
      by omega, .inl rfl⟩
  · next h0 =>
    obtain ⟨t, ht⟩ : ∃ t, F.expBits x = t + 1 := ⟨F.expBits x - 1, by omega⟩
    rw [← FloatFormat.hidden]
    refine ⟨t, ?_, ?_, by omega, .inr (by omega)⟩
    · rw [← add_assoc, ← Nat.succ_mul, Nat.succ_eq_add_one, ← ht, ← hsplit]
    · rw [ht, FloatFormat.gridExp, FloatFormat.emin]; push_cast; ring

/-- The number of a pattern given as a count of last places of a grid, the end of the grid included. -/
theorem magnitude_grid {F : FloatFormat} (hF : F.Usable) {t R : Nat} (hx : t * F.hidden + R < 2 ^ (F.w + F.p - 1))
    (hR : R ≤ 2 * F.hidden) (hlow : t = 0 ∨ F.hidden ≤ R) :
    F.magnitude (t * F.hidden + R) = (R : ℚ) * (2 : ℚ) ^ F.gridExp t := by
  have hpos := hidden_pos F
  obtain ⟨t', hsplit, hq, hsig, hlow'⟩ := pattern_on_grid hF hx
  rw [FloatFormat.magnitude, hq]
  generalize F.significand (t * F.hidden + R) = S at hsplit hsig hlow'
  rcases lt_trichotomy t t' with h | rfl | h
  · obtain ⟨d, rfl⟩ : ∃ d, t' = t + 1 + d := ⟨t' - (t + 1), by omega⟩
    rw [add_mul, add_mul, one_mul] at hsplit
    obtain rfl : d = 0 := by
      by_contra hd
      have : F.hidden ≤ d * F.hidden := Nat.le_mul_of_pos_left _ (by omega)
      omega
    have hcount : R = 2 * F.hidden ∧ S = F.hidden := by omega
    have hexp : F.gridExp (t + 1 + 0) = F.gridExp t + 1 := by
      rw [FloatFormat.gridExp, FloatFormat.gridExp]; push_cast; ring
    rw [hcount.1, hcount.2, hexp, zpow_add_one₀ (by norm_num)]
    push_cast
    ring
  · obtain rfl : R = S := by omega
    rfl
  · obtain ⟨d, rfl⟩ : ∃ d, t = t' + 1 + d := ⟨t - (t' + 1), by omega⟩
    rw [add_mul, add_mul, one_mul] at hsplit
    have hle : F.hidden ≤ R := hlow.resolve_left (by omega)
    omega

/-- The next pattern is one last place further. -/
theorem magnitude_succ {F : FloatFormat} (hF : F.Usable) {x : Nat} (hx : x + 1 < 2 ^ (F.w + F.p - 1)) :
    F.magnitude (x + 1) = F.magnitude x + (2 : ℚ) ^ F.quantum x := by
  obtain ⟨t, hsplit, hq, hsig, hlow⟩ := pattern_on_grid hF (Nat.lt_of_succ_lt hx)
  have hnext : x + 1 = t * F.hidden + (F.significand x + 1) := by omega
  rw [hnext, magnitude_grid hF (by omega) (by omega) (hlow.imp_right fun h => by omega), FloatFormat.magnitude, hq]
  push_cast
  ring

theorem magnitude_add_le {F : FloatFormat} (hF : F.Usable) {x y : Nat} (hxy : x < y)
    (hy : y < 2 ^ (F.w + F.p - 1)) : F.magnitude x + (2 : ℚ) ^ F.quantum x ≤ F.magnitude y := by
  induction y, hxy using Nat.le_induction with
  | base => rw [magnitude_succ hF hy]
  | succ y hxy ih =>
    have hpos : (0 : ℚ) < (2 : ℚ) ^ F.quantum y := by positivity
    rw [magnitude_succ hF hy]
    linarith [ih (by omega)]

theorem magnitude_lt {F : FloatFormat} (hF : F.Usable) {x y : Nat} (hxy : x < y)
    (hy : y < 2 ^ (F.w + F.p - 1)) : F.magnitude x < F.magnitude y := by
  have hpos : (0 : ℚ) < (2 : ℚ) ^ F.quantum x := by positivity
  linarith [magnitude_add_le hF hxy hy]

theorem magnitude_le {F : FloatFormat} (hF : F.Usable) {x y : Nat} (hxy : x ≤ y)
    (hy : y < 2 ^ (F.w + F.p - 1)) : F.magnitude x ≤ F.magnitude y := by
  rcases hxy.eq_or_lt with rfl | hlt
  · exact le_rfl
  · exact (magnitude_lt hF hlt hy).le

theorem magnitude_injective {F : FloatFormat} (hF : F.Usable) {x y : Nat} (hx : x < 2 ^ (F.w + F.p - 1))
    (hy : y < 2 ^ (F.w + F.p - 1)) (h : F.magnitude x = F.magnitude y) : x = y := by
  rcases lt_trichotomy x y with hlt | heq | hlt
  · exact absurd h (magnitude_lt hF hlt hy).ne
  · exact heq
  · exact absurd h (magnitude_lt hF hlt hx).ne'

theorem magnitude_nonneg (F : FloatFormat) (x : Nat) : 0 ≤ F.magnitude x := by
  rw [FloatFormat.magnitude]; positivity

theorem magnitude_zero (F : FloatFormat) : F.magnitude 0 = 0 := by
  simp [FloatFormat.magnitude, FloatFormat.significand, FloatFormat.expBits, FloatFormat.fracBits]

/-! ### Powers and logarithms on numerators and denominators -/

theorem powDen_pos {b : Nat} (hb : 0 < b) (e : Int) : 0 < powDen b e := Nat.pow_pos hb

theorem powNum_eq {b : Nat} (hb : 0 < b) (e : Int) : (powNum b e : ℚ) = (b : ℚ) ^ e * powDen b e := by
  have hne : (b : ℚ) ≠ 0 := by positivity
  rw [powNum, powDen]
  push_cast
  rw [← zpow_natCast, ← zpow_natCast, ← zpow_add₀ hne]
  congr 1
  omega

/-- The test of `floorLog2` and of `floorLog10`: an estimate that is one too large at most is corrected. -/
theorem floorLog_correct {b num den : Nat} (hb : 0 < b) (hd : 0 < den) {d : Int}
    (h1 : (b : ℚ) ^ (d - 1) ≤ (num : ℚ) / den) (h2 : (num : ℚ) / den < (b : ℚ) ^ (d + 1)) :
    (b : ℚ) ^ (if den * powNum b d ≤ num * powDen b d then d else d - 1) ≤ (num : ℚ) / den ∧
    (num : ℚ) / den < (b : ℚ) ^ ((if den * powNum b d ≤ num * powDen b d then d else d - 1) + 1) := by
  have hden : (0 : ℚ) < den := by exact_mod_cast hd
  have hpow : (0 : ℚ) < powDen b d := by exact_mod_cast powDen_pos hb d
  have htest : den * powNum b d ≤ num * powDen b d ↔ (b : ℚ) ^ d ≤ (num : ℚ) / den := by
    rw [← Nat.cast_le (α := ℚ), Nat.cast_mul, Nat.cast_mul, powNum_eq hb, le_div_iff₀ hden, ← mul_assoc,
      mul_le_mul_iff_left₀ hpow, mul_comm]
  split
  · next h => exact ⟨htest.1 h, h2⟩
  · next h => exact ⟨h1, by rw [sub_add_cancel]; exact not_le.1 (mt htest.2 h)⟩

theorem floorLog2_spec {num den : Nat} (hn : num ≠ 0) (hd : den ≠ 0) :
    (2 : ℚ) ^ floorLog2 num den ≤ (num : ℚ) / den ∧ (num : ℚ) / den < (2 : ℚ) ^ (floorLog2 num den + 1) := by
  have hden : (0 : ℚ) < den := by positivity
  have hnum1 : ((2 : ℚ) ^ (num.log2 : Int)) ≤ num := by rw [zpow_natCast]; exact_mod_cast Nat.log2_self_le hn
  have hnum2 : (num : ℚ) < (2 : ℚ) ^ ((num.log2 : Int) + 1) := by exact_mod_cast Nat.lt_log2_self (n := num)
  have hden1 : ((2 : ℚ) ^ (den.log2 : Int)) ≤ den := by rw [zpow_natCast]; exact_mod_cast Nat.log2_self_le hd
  have hden2 : (den : ℚ) < (2 : ℚ) ^ ((den.log2 : Int) + 1) := by exact_mod_cast Nat.lt_log2_self (n := den)
  refine floorLog_correct (b := 2) (by decide) (Nat.pos_of_ne_zero hd) ?_ ?_
  · rw [le_div_iff₀ hden]
    calc (2 : ℚ) ^ ((num.log2 : Int) - den.log2 - 1) * den
        ≤ (2 : ℚ) ^ ((num.log2 : Int) - den.log2 - 1) * (2 : ℚ) ^ ((den.log2 : Int) + 1) :=
          mul_le_mul_of_nonneg_left hden2.le (by positivity)
      _ = (2 : ℚ) ^ (num.log2 : Int) := by rw [← zpow_add₀ (by norm_num)]; congr 1; ring
      _ ≤ num := hnum1
  · rw [div_lt_iff₀ hden]
    calc (num : ℚ) < (2 : ℚ) ^ ((num.log2 : Int) + 1) := hnum2
      _ = (2 : ℚ) ^ ((num.log2 : Int) - den.log2 + 1) * (2 : ℚ) ^ (den.log2 : Int) := by
          rw [← zpow_add₀ (by norm_num)]; congr 1; ring
      _ ≤ (2 : ℚ) ^ ((num.log2 : Int) - den.log2 + 1) * den := mul_le_mul_of_nonneg_left hden1 (by positivity)

/-! ### Rounding to the nearest integer, ties to even -/

/-- `R` is nearest to `z`, and even where another integer is as near. -/
structure NearestEven (R : Nat) (z : ℚ) : Prop where
  near : 2 * |z - R| ≤ 1
  tie : 2 * |z - R| = 1 → R % 2 = 0

theorem divRoundEven_nearestEven (num : Nat) {den : Nat} (hd : 0 < den) :
    NearestEven (divRoundEven num den) ((num : ℚ) / den) := by
  have hden : (0 : ℚ) < den := by exact_mod_cast hd
  have hrem : num % den < den := Nat.mod_lt _ hd
  have hsplit : (num : ℚ) / den = (num / den : Nat) + ((num % den : Nat) : ℚ) / den := by
    have hcast : (num : ℚ) = (num / den : Nat) * den + (num % den : Nat) := by exact_mod_cast (Nat.div_add_mod' num den).symm
    rw [div_eq_iff hden.ne', add_mul, div_mul_cancel₀ _ hden.ne', ← hcast]
  rw [divRoundEven]
  generalize num / den = q at hsplit
  generalize num % den = r at hsplit hrem
  have hr : ((r : ℕ) : ℚ) < den := by exact_mod_cast hrem
  rw [hsplit]
  split
  · next hup =>
    have hhalf : (den : ℚ) ≤ 2 * r := by exact_mod_cast (show den ≤ 2 * r by omega)
    have hdiff : (q : ℚ) + r / den - ((q + 1 : Nat) : ℚ) = (r - den) / den := by
      push_cast; rw [sub_div, div_self hden.ne']; ring
    have habs : |((r : ℚ) - den) / den| = (den - r) / den := by
      rw [abs_div, abs_of_pos hden, abs_of_neg (by linarith), neg_sub]
    refine ⟨?_, fun heq => ?_⟩
    · rw [hdiff, habs, ← mul_div_assoc, div_le_one hden]; linarith
    · rw [hdiff, habs, ← mul_div_assoc, div_eq_one_iff_eq hden.ne'] at heq
      have htie : 2 * r = den := by exact_mod_cast (show (2 : ℚ) * r = den by linarith)
      omega
  · next hdown =>
    have hhalf : 2 * (r : ℚ) ≤ den := by exact_mod_cast (show 2 * r ≤ den by omega)
    have habs : |(q : ℚ) + r / den - q| = r / den := by
      rw [add_sub_cancel_left, abs_of_nonneg (by positivity)]
    refine ⟨?_, fun heq => ?_⟩
    · rw [habs, ← mul_div_assoc, div_le_one hden]; linarith
    · rw [habs, ← mul_div_assoc, div_eq_one_iff_eq hden.ne'] at heq
      have htie : 2 * r = den := by exact_mod_cast heq
      omega

/-- No integer is nearer, and one as near makes `R` even. -/
theorem NearestEven.le {R : Nat} {z : ℚ} (h : NearestEven R z) (n : Nat) :
    |z - R| ≤ |z - n| ∧ (|z - R| = |z - n| → n = R ∨ R % 2 = 0) := by
  by_cases hn : n = R
  · subst hn
    exact ⟨le_rfl, fun _ => .inl rfl⟩
  have hgap : (1 : ℚ) ≤ |(R : ℚ) - n| := by
    have hint : (1 : Int) ≤ |(R : Int) - n| := Int.one_le_abs (by omega)
    exact_mod_cast hint
  have htri : |(R : ℚ) - n| ≤ |z - R| + |z - n| := by
    rw [abs_sub_comm z R]
    exact abs_sub_le _ _ _
  have hnear := h.near
  exact ⟨by linarith, fun heq => .inr (h.tie (by linarith))⟩

theorem NearestEven.le_of_le {R : Nat} {z : ℚ} (h : NearestEven R z) {k : Nat} (hk : (k : ℚ) ≤ z) : k ≤ R := by
  by_contra hlt
  have hle : (R : ℚ) + 1 ≤ k := by exact_mod_cast (show R + 1 ≤ k by omega)
  have habs := le_abs_self (z - R)
  linarith [h.near]

theorem NearestEven.le_of_ge {R : Nat} {z : ℚ} (h : NearestEven R z) {k : Nat} (hk : z ≤ k) : R ≤ k := by
  by_contra hlt
  have hle : (k : ℚ) + 1 ≤ R := by exact_mod_cast (show k + 1 ≤ R by omega)
  have habs := neg_abs_le (z - R)
  linarith [h.near]

/-- An even number is reached exactly from half a unit below it on. -/
theorem NearestEven.even_le_iff {R : Nat} {z : ℚ} (h : NearestEven R z) {k : Nat} (hk : k % 2 = 0) :
    k ≤ R ↔ (k : ℚ) - 1 / 2 ≤ z := by
  refine ⟨fun hle => ?_, fun hz => ?_⟩
  · have hcast : (k : ℚ) ≤ R := by exact_mod_cast hle
    have habs := neg_abs_le (z - R)
    linarith [h.near]
  · by_contra hlt
    have hcast : (R : ℚ) + 1 ≤ k := by exact_mod_cast (show R + 1 ≤ k by omega)
    have habs := le_abs_self (z - R)
    have hnear := h.near
    have hpred : (R : ℚ) + 1 = k := by linarith
    have hnat : R + 1 = k := by exact_mod_cast hpred
    have heven := h.tie (by linarith)
    omega

/-! ### Rounding on the grids -/

/-- `v` rounds to `R` last places of the `t`-th grid, the grid that holds it. -/
structure FloatFormat.RoundsTo (F : FloatFormat) (v : ℚ) (t R : Nat) : Prop where
  nearest : NearestEven R (v / (2 : ℚ) ^ F.gridExp t)
  above : t = 0 ∨ (F.hidden : ℚ) * (2 : ℚ) ^ F.gridExp t ≤ v
  below : v < ((2 * F.hidden : Nat) : ℚ) * (2 : ℚ) ^ F.gridExp t

theorem FloatFormat.RoundsTo.le_two_hidden {F : FloatFormat} {v : ℚ} {t R : Nat} (h : F.RoundsTo v t R) :
    R ≤ 2 * F.hidden :=
  h.nearest.le_of_ge (by rw [div_le_iff₀ (by positivity)]; exact h.below.le)

theorem FloatFormat.RoundsTo.hidden_le {F : FloatFormat} {v : ℚ} {t R : Nat} (h : F.RoundsTo v t R) :
    t = 0 ∨ F.hidden ≤ R :=
  h.above.imp_right fun hle => h.nearest.le_of_le (by rw [le_div_iff₀ (by positivity)]; exact hle)

/-- The rounding of a positive fraction, as the grid and the count that `roundMagnitude` computes. -/
theorem roundMagnitude_roundsTo {F : FloatFormat} (hF : F.Usable) {num den : Nat} (hn : num ≠ 0) (hd : 0 < den) :
    ∃ t R : Nat, F.RoundsTo ((num : ℚ) / den) t R ∧ F.roundMagnitude num den = min F.infinity (t * F.hidden + R) := by
  obtain ⟨hlog1, hlog2⟩ := floorLog2_spec hn hd.ne'
  obtain ⟨t, ht⟩ : ∃ t : Nat, (t : Int) = max (floorLog2 num den) F.emin - F.emin :=
    ⟨(max (floorLog2 num den) F.emin - F.emin).toNat, by omega⟩
  have hu : F.ulpExponent num den = F.gridExp t := by
    rw [FloatFormat.ulpExponent, FloatFormat.gridExp]; omega
  have htn : (F.gridExp t + (F.p - 1) - F.emin).toNat = t := by
    rw [FloatFormat.gridExp]; omega
  have hhidden : ((F.hidden : Nat) : ℚ) * (2 : ℚ) ^ F.gridExp t = (2 : ℚ) ^ (F.emin + t) := by
    have hp := hF.two_le_p
    rw [FloatFormat.hidden, Nat.cast_pow, ← zpow_natCast, Nat.cast_ofNat, ← zpow_add₀ (by norm_num),
      FloatFormat.gridExp]
    congr 1
    omega
  have hscaled : ((num * powDen 2 (F.gridExp t) : Nat) : ℚ) / ((den * powNum 2 (F.gridExp t) : Nat) : ℚ) =
      (num : ℚ) / den / (2 : ℚ) ^ F.gridExp t := by
    have hne : (powDen 2 (F.gridExp t) : ℚ) ≠ 0 := by exact_mod_cast (powDen_pos (by decide) _).ne'
    rw [Nat.cast_mul, Nat.cast_mul, powNum_eq (by decide), ← mul_assoc, mul_div_mul_right _ _ hne, div_div]
    rfl
  refine ⟨t, divRoundEven (num * powDen 2 (F.gridExp t)) (den * powNum 2 (F.gridExp t)), ⟨?_, ?_, ?_⟩, ?_⟩
  · rw [← hscaled]
    exact divRoundEven_nearestEven _ (Nat.mul_pos hd (Nat.pow_pos (by decide)))
  · rcases Nat.eq_zero_or_pos t with h0 | hpos
    · exact .inl h0
    · have hexp : F.emin + t = floorLog2 num den := by omega
      exact .inr (by rw [hhidden, hexp]; exact hlog1)
  · have hexp : floorLog2 num den + 1 ≤ F.emin + t + 1 := by omega
    rw [Nat.cast_mul, mul_assoc, hhidden, Nat.cast_ofNat, mul_comm, ← zpow_add_one₀ (by norm_num)]
    exact hlog2.trans_le (zpow_le_zpow_right₀ (by norm_num) hexp)
  · rw [FloatFormat.roundMagnitude, if_neg hn, hu, htn]; rfl

/-- The number from which rounding gives infinity: halfway past the largest finite value (R167). -/
def FloatFormat.overflowFrom (F : FloatFormat) : ℚ := (2 : ℚ) ^ (F.bias + 1) - (2 : ℚ) ^ (F.bias - F.p)

/-- The threshold lies half a last place before the end of the last finite grid. -/
theorem overflowFrom_eq {F : FloatFormat} (hF : F.Usable) {t : Nat} (ht : t + 3 = 2 ^ F.w) :
    F.overflowFrom = (((2 * F.hidden : Nat) : ℚ) - 1 / 2) * (2 : ℚ) ^ F.gridExp t := by
  have hw := cast_two_pow_w hF
  have hexp : F.gridExp t = F.bias - F.p + 1 := by
    rw [← ht] at hw
    rw [FloatFormat.gridExp, FloatFormat.emin]
    push_cast at hw
    omega
  have htop : (2 : ℚ) ^ (F.bias + 1) = ((2 : ℚ) ^ F.p) * (2 * (2 : ℚ) ^ (F.bias - F.p)) := by
    rw [← zpow_natCast, ← zpow_one_add₀ (by norm_num), ← zpow_add₀ (by norm_num)]
    congr 1
    ring
  rw [FloatFormat.overflowFrom, two_hidden hF, hexp, htop, zpow_add_one₀ (by norm_num)]
  push_cast
  ring

/-- A grid's last place is at most half that of a later grid. -/
theorem gridExp_lt {F : FloatFormat} {t t' : Nat} (h : t < t') :
    2 * (2 : ℚ) ^ F.gridExp t ≤ (2 : ℚ) ^ F.gridExp t' := by
  rw [← zpow_one_add₀ (by norm_num)]
  refine zpow_le_zpow_right₀ (by norm_num) ?_
  rw [FloatFormat.gridExp, FloatFormat.gridExp]
  omega

/-- The counted pattern reaches infinity exactly from the threshold on. -/
theorem FloatFormat.RoundsTo.infinity_le_iff {F : FloatFormat} (hF : F.Usable) {v : ℚ} {t R : Nat}
    (h : F.RoundsTo v t R) : F.infinity ≤ t * F.hidden + R ↔ F.overflowFrom ≤ v := by
  have hpos := hidden_pos F
  have hone : (1 : ℚ) ≤ F.hidden := by exact_mod_cast hpos
  have hfour : 2 ^ 2 ≤ 2 ^ F.w := Nat.pow_le_pow_right (by decide) hF.two_le_w
  obtain ⟨last, hlast⟩ : ∃ last, last + 3 = 2 ^ F.w := ⟨2 ^ F.w - 3, by omega⟩
  have hinf : F.infinity = last * F.hidden + 2 * F.hidden := by
    rw [infinity_eq, ← hlast, ← add_mul]; rfl
  have hR := h.le_two_hidden
  rw [overflowFrom_eq hF hlast, hinf]
  rcases lt_trichotomy t last with hlt | rfl | hgt
  · have hmul : (t + 1) * F.hidden ≤ last * F.hidden := Nat.mul_le_mul_right _ hlt
    rw [add_mul, one_mul] at hmul
    refine iff_of_false (by omega) (not_le.2 ?_)
    have hgrid := gridExp_lt (F := F) hlt
    have hbelow := h.below
    push_cast at hbelow ⊢
    nlinarith [show (0 : ℚ) < 2 ^ F.gridExp last by positivity]
  · rw [Nat.add_le_add_iff_left, h.nearest.even_le_iff (by omega), le_div_iff₀ (by positivity)]
  · have hmul : (last + 1) * F.hidden ≤ t * F.hidden := Nat.mul_le_mul_right _ hgt
    rw [add_mul, one_mul] at hmul
    have hlow := h.hidden_le.resolve_left (by omega)
    refine iff_of_true (by omega) ?_
    have hgrid := gridExp_lt (F := F) hgt
    have habove := h.above.resolve_left (by omega)
    push_cast
    nlinarith [show (0 : ℚ) < 2 ^ F.gridExp last by positivity]

theorem gridExp_zero_le_quantum {F : FloatFormat} (hF : F.Usable) {y : Nat} (hy : y < 2 ^ (F.w + F.p - 1)) :
    F.gridExp 0 ≤ F.quantum y := by
  obtain ⟨t, -, hq, -⟩ := pattern_on_grid hF hy
  rw [hq, FloatFormat.gridExp, FloatFormat.gridExp]
  omega

/-- Against a grid, any number of the format is a whole number of its last places, or lies below its normal numbers. -/
theorem magnitude_vs_grid {F : FloatFormat} (hF : F.Usable) {y : Nat} (hy : y < 2 ^ (F.w + F.p - 1)) (t : Nat) :
    (∃ n : Nat, F.magnitude y = (n : ℚ) * (2 : ℚ) ^ F.gridExp t) ∨
    (t ≠ 0 ∧ F.magnitude y < (F.hidden : ℚ) * (2 : ℚ) ^ F.gridExp t) := by
  obtain ⟨t', -, hq, hsig, -⟩ := pattern_on_grid hF hy
  rw [FloatFormat.magnitude, hq]
  rcases Nat.lt_or_ge t' t with hlt | hge
  · have hcast : (F.significand y : ℚ) < 2 * F.hidden := by exact_mod_cast hsig
    refine .inr ⟨by omega, ?_⟩
    calc (F.significand y : ℚ) * (2 : ℚ) ^ F.gridExp t'
        < 2 * F.hidden * (2 : ℚ) ^ F.gridExp t' := mul_lt_mul_of_pos_right hcast (by positivity)
      _ = F.hidden * (2 * (2 : ℚ) ^ F.gridExp t') := by ring
      _ ≤ F.hidden * (2 : ℚ) ^ F.gridExp t := mul_le_mul_of_nonneg_left (gridExp_lt hlt) (by positivity)
  · refine .inl ⟨F.significand y * 2 ^ (t' - t), ?_⟩
    have hexp : F.gridExp t' = ((t' - t : Nat) : Int) + F.gridExp t := by
      rw [FloatFormat.gridExp, FloatFormat.gridExp]; omega
    rw [hexp, zpow_add₀ (by norm_num), zpow_natCast]
    push_cast
    ring

theorem abs_sub_mul_of_pos (v r : ℚ) {s : ℚ} (hs : 0 < s) : |v - r * s| = |v / s - r| * s := by
  rw [← abs_of_pos hs, ← abs_mul, abs_of_pos hs, sub_mul, div_mul_cancel₀ _ hs.ne']

/-- A count on its grid is the nearest number of the format, of two equally near the even one. -/
theorem FloatFormat.RoundsTo.nearest_magnitude {F : FloatFormat} (hF : F.Usable) {v : ℚ} {t R : Nat}
    (h : F.RoundsTo v t R) (hx : t * F.hidden + R < F.infinity) {y : Nat} (hy : y < F.infinity) :
    |v - F.magnitude (t * F.hidden + R)| ≤ |v - F.magnitude y| ∧
    (|v - F.magnitude (t * F.hidden + R)| = |v - F.magnitude y| →
      y = t * F.hidden + R ∨ (t * F.hidden + R) % 2 = 0) := by
  have hx' := hx.trans (infinity_lt_signBit hF)
  have hy' := hy.trans (infinity_lt_signBit hF)
  have hpos : (0 : ℚ) < (2 : ℚ) ^ F.gridExp t := by positivity
  have hmag := magnitude_grid hF hx' h.le_two_hidden h.hidden_le
  rw [hmag, abs_sub_mul_of_pos v _ hpos]
  rcases magnitude_vs_grid hF hy' t with ⟨n, hn⟩ | ⟨ht, hlow⟩
  · obtain ⟨hle, htie⟩ := h.nearest.le n
    rw [hn, abs_sub_mul_of_pos v _ hpos]
    refine ⟨mul_le_mul_of_nonneg_right hle hpos.le, fun heq => ?_⟩
    rcases htie (mul_right_cancel₀ hpos.ne' heq) with rfl | heven
    · exact .inl (magnitude_injective hF hy' hx' (hn.trans hmag.symm))
    · exact .inr (by rw [Nat.add_mod, Nat.mul_mod, even_hidden hF, heven]; simp)
  · have habove := h.above.resolve_left ht
    have hle := mul_le_mul_of_nonneg_right (h.nearest.le F.hidden).1 hpos.le
    rw [← abs_sub_mul_of_pos v F.hidden hpos, abs_of_nonneg (sub_nonneg.2 habove)] at hle
    have hlt : |v / (2 : ℚ) ^ F.gridExp t - R| * (2 : ℚ) ^ F.gridExp t < |v - F.magnitude y| := by
      rw [abs_of_pos (show 0 < v - F.magnitude y by linarith)]
      linarith
    exact ⟨hlt.le, fun heq => absurd heq hlt.ne⟩

theorem isRounded_zero {F : FloatFormat} (hF : F.Usable) : F.IsRounded 0 0 := by
  have hthreshold : (0 : ℚ) < F.overflowFrom := by
    have hbias := one_le_bias hF
    exact sub_pos.2 (zpow_lt_zpow_right₀ (by norm_num) (by omega))
  refine ⟨fun h => absurd h (not_le.2 hthreshold), fun _ => ⟨?_, fun y _ => ⟨?_, fun _ => .inr rfl⟩⟩⟩
  · have hfour : 2 ^ 2 ≤ 2 ^ F.w := Nat.pow_le_pow_right (by decide) hF.two_le_w
    exact Nat.mul_pos (by omega) (hidden_pos F)
  · rw [magnitude_zero, sub_zero, abs_zero]
    exact abs_nonneg _

/-- `roundMagnitude` is `RN_N` (R167). -/
theorem roundMagnitude_isRounded {F : FloatFormat} (hF : F.Usable) (num : Nat) {den : Nat} (hd : 0 < den) :
    F.IsRounded ((num : ℚ) / den) (F.roundMagnitude num den) := by
  by_cases hn : num = 0
  · subst hn
    rw [Nat.cast_zero, zero_div, FloatFormat.roundMagnitude, if_pos rfl]
    exact isRounded_zero hF
  obtain ⟨t, R, h, heq⟩ := roundMagnitude_roundsTo hF hn hd
  have hiff := h.infinity_le_iff hF
  rw [heq]
  refine ⟨fun hover => min_eq_left (hiff.2 hover), fun hlt => ?_⟩
  have hx : t * F.hidden + R < F.infinity := not_le.1 (mt hiff.1 (not_le.2 hlt))
  rw [min_eq_right hx.le]
  exact ⟨hx, fun y hy => h.nearest_magnitude hF hx hy⟩

/-! ### Casts and products -/

theorem roundMagnitude_le_infinity (F : FloatFormat) (num den : Nat) : F.roundMagnitude num den ≤ F.infinity := by
  rw [FloatFormat.roundMagnitude]
  split
  · exact Nat.zero_le _
  · exact min_le_left _ _

theorem roundMagnitude_lt_signBit {F : FloatFormat} (hF : F.Usable) (num den : Nat) :
    F.roundMagnitude num den < 2 ^ (F.w + F.p - 1) :=
  (roundMagnitude_le_infinity F num den).trans_lt (infinity_lt_signBit hF)

theorem round_isRounded {F : FloatFormat} (hF : F.Usable) (σ : Bool) (num : Nat) {den : Nat} (hd : 0 < den) :
    F.IsRounded ((num : ℚ) / den) (F.round σ num den % 2 ^ (F.w + F.p - 1)) ∧
      F.negative (F.round σ num den) = σ := by
  have hlt := roundMagnitude_lt_signBit hF num den
  rw [FloatFormat.round, signed_mod hlt, negative_signed hlt]
  exact ⟨roundMagnitude_isRounded hF num hd, rfl⟩

theorem ofInt_isRounded {F : FloatFormat} (hF : F.Usable) (c : Int) :
    F.IsRounded |(c : ℚ)| (F.ofInt c % 2 ^ (F.w + F.p - 1)) ∧ F.negative (F.ofInt c) = decide (c < 0) := by
  have habs : |(c : ℚ)| = (c.natAbs : ℚ) / (1 : Nat) := by
    rw [Nat.cast_one, div_one, ← Int.cast_abs, Int.abs_eq_natAbs, Int.cast_natCast]
  rw [habs]
  exact round_isRounded hF _ _ Nat.one_pos

theorem mult_finite {F : FloatFormat} {x y : Nat} {σ τ : Bool} {f g : Nat} {q r : Int}
    (hx : F.value x = .finite σ f q) (hy : F.value y = .finite τ g r) :
    F.mult x y = F.round (σ != τ) (f * g * powNum 2 (q + r)) (powDen 2 (q + r)) := by
  rw [FloatFormat.mult, hx, hy]

theorem product_eq_fraction (f g : Nat) (q r : Int) :
    (f : ℚ) * (2 : ℚ) ^ q * ((g : ℚ) * (2 : ℚ) ^ r) =
      ((f * g * powNum 2 (q + r) : Nat) : ℚ) / (powDen 2 (q + r) : Nat) := by
  have hne : (powDen 2 (q + r) : ℚ) ≠ 0 := by exact_mod_cast (powDen_pos (by decide) _).ne'
  rw [Nat.cast_mul, powNum_eq (by decide), ← mul_assoc ((f * g : Nat) : ℚ), mul_div_cancel_right₀ _ hne,
    Nat.cast_ofNat, zpow_add₀ (by norm_num)]
  push_cast
  ring

theorem mult_nan {F : FloatFormat} {x y : Nat} (h : F.value x = .nan ∨ F.value y = .nan) :
    F.mult x y = F.quietNaN := by
  rw [FloatFormat.mult]
  rcases h with h | h
  · rw [h]
  · rw [h]
    cases F.value x <;> rfl

/-- Settles O60: the fields, the grids, and the arms of `mult`. -/
theorem floatRoundingIsNearestEven : Obligations.FloatRoundingIsNearestEven := by
  intro F hmem
  have hF := usable_of_mem hmem
  refine ⟨fun σ E M hE hM => value_signed_fields hF σ hE hM, fun num den hd => roundMagnitude_isRounded hF num hd,
    ofInt_isRounded hF, fun x y σ τ f g q r hx hy => ?finite, fun x y h => mult_nan h,
    fun x y σ τ hx hy => ?infinite, fun x y σ τ f q hx hy => ?mixed⟩
  case finite =>
    rw [mult_finite hx hy, product_eq_fraction]
    exact round_isRounded hF _ _ (powDen_pos (by decide) _)
  case infinite => rw [FloatFormat.mult, hx, hy]
  case mixed =>
    refine ⟨by rw [FloatFormat.mult, hx, hy], ?_⟩
    rw [FloatFormat.mult, hx, hy, bne_comm]

end Sys2Proof.Machine
end

section
/-! Proofs of the float part of the conversion family (44_conversions.md R140 to R143, R145): TOF by class and at exponent
0, the power-of-ten parameters, and FROMF of the special patterns. -/

namespace Sys2Proof.Machine

/-! ### TOF by class -/

theorem exec_tof32 (a : Word) (s : State) :
    exec (.tof32 a) s = .next (s.offer (placeF (BitVec.ofNat 32 (toFloat binary32 pow10_32 a))) 0#4) := rfl

theorem exec_tof64 (a : Word) (s : State) :
    exec (.tof64 a) s = .next (s.offer (placeF (BitVec.ofNat 64 (toFloat binary64 pow10_64 a))) 0#4) := rfl

theorem toFloat_of_isnan {a : Word} (h : isnan a = true) (F : FloatFormat) (pow10 : Int → Nat) :
    toFloat F pow10 a = F.quietNaN := if_pos h

theorem toFloat_of_iszero {a : Word} (h : iszero a = true) (F : FloatFormat) (pow10 : Int → Nat) :
    toFloat F pow10 a = 0 := by
  rw [toFloat, not_isnan_of_iszero h, if_neg Bool.false_ne_true, if_pos h]

theorem toFloat_of_finite {a : Word} (hn : isnan a = false) (hz : iszero a = false) (F : FloatFormat)
    (pow10 : Int → Nat) : toFloat F pow10 a = F.mult (F.ofInt (coef a)) (pow10 (expo a)) := by
  rw [toFloat, hn, if_neg Bool.false_ne_true, hz, if_neg Bool.false_ne_true]

/-- Settles O54: the three arms of the template in both formats. -/
theorem toFloatByClass : Obligations.ToFloatByClass := by
  refine fun a s => ⟨fun hn => ⟨?_, ?_⟩, fun hz => ⟨?_, ?_⟩, fun hn hz => ⟨?_, ?_⟩⟩
  · rw [exec_tof32, toFloat_of_isnan hn]; rfl
  · rw [exec_tof64, toFloat_of_isnan hn]; rfl
  · rw [exec_tof32, toFloat_of_iszero hz]; rfl
  · rw [exec_tof64, toFloat_of_iszero hz]; rfl
  · rw [exec_tof32, toFloat_of_finite hn hz]
  · rw [exec_tof64, toFloat_of_finite hn hz]

/-! ### Patterns up to infinity -/

theorem expBits_eq_div {F : FloatFormat} (hF : F.Usable) {x : Nat} (hx : x < 2 ^ (F.w + F.p - 1)) :
    F.expBits x = x / F.hidden := by
  rw [two_pow_signBit hF, mul_comm] at hx
  exact Nat.mod_eq_of_lt (Nat.div_lt_of_lt_mul hx)

theorem fields_of_pattern {F : FloatFormat} (hF : F.Usable) {x : Nat} (hx : x < 2 ^ (F.w + F.p - 1)) :
    x = F.expBits x * F.hidden + F.fracBits x := by
  rw [expBits_eq_div hF hx, FloatFormat.fracBits, ← FloatFormat.hidden, Nat.div_add_mod']

theorem value_ne_nan_of_le_infinity {F : FloatFormat} (hF : F.Usable) {x : Nat} (hx : x ≤ F.infinity) :
    F.value x ≠ .nan := by
  have hfields := fields_of_pattern hF (hx.trans_lt (infinity_lt_signBit hF))
  rw [FloatFormat.value]
  split
  · next hE =>
    have hfrac : F.fracBits x = 0 := by
      rw [hE, ← infinity_eq] at hfields
      omega
    rw [if_pos hfrac]
    exact FloatValue.noConfusion
  · exact FloatValue.noConfusion

theorem negative_of_le_infinity {F : FloatFormat} (hF : F.Usable) {x : Nat} (hx : x ≤ F.infinity) :
    F.negative x = false :=
  negative_signed (σ := false) (hx.trans_lt (infinity_lt_signBit hF))

theorem constrainPow10_le_infinity (F : FloatFormat) (pattern : Int → Nat) (e : Int) :
    F.constrainPow10 pattern e ≤ F.infinity := by
  rw [FloatFormat.constrainPow10]
  split
  · have hpow : 2 ^ (F.w - 1) ≤ 2 ^ F.w := Nat.pow_le_pow_right (by decide) (Nat.sub_le _ _)
    exact Nat.mul_le_mul_right _ (by omega)
  · exact min_le_left _ _

theorem usable_binary32 : binary32.Usable := ⟨by decide, by decide⟩

theorem usable_binary64 : binary64.Usable := ⟨by decide, by decide⟩

/-- The pattern of 1.0: a biased exponent equal to the bias, and no fraction. -/
def FloatFormat.one (F : FloatFormat) : Nat := (2 ^ (F.w - 1) - 1) * F.hidden

theorem constrainPow10_zero (F : FloatFormat) (pattern : Int → Nat) : F.constrainPow10 pattern 0 = F.one := if_pos rfl

theorem pow10_32_zero : pow10_32 0 = binary32.one := constrainPow10_zero _ _

theorem pow10_64_zero : pow10_64 0 = binary64.one := constrainPow10_zero _ _

/-- Settles O55: every choice is at most infinity. -/
theorem powersOfTenAreConstrained : Obligations.PowersOfTenAreConstrained := by
  refine ⟨fun e => ?_, pow10_32_zero, pow10_64_zero⟩
  have h32 : pow10_32 e ≤ binary32.infinity := constrainPow10_le_infinity _ _ e
  have h64 : pow10_64 e ≤ binary64.infinity := constrainPow10_le_infinity _ _ e
  exact ⟨value_ne_nan_of_le_infinity usable_binary32 h32, negative_of_le_infinity usable_binary32 h32,
    value_ne_nan_of_le_infinity usable_binary64 h64, negative_of_le_infinity usable_binary64 h64⟩

/-! ### Numbers of the format are kept by rounding -/

/-- A number of the format rounds to its own count of last places. -/
theorem roundsTo_magnitude {F : FloatFormat} (hF : F.Usable) {x : Nat} (hx : x < 2 ^ (F.w + F.p - 1)) :
    ∃ t : Nat, x = t * F.hidden + F.significand x ∧ F.RoundsTo (F.magnitude x) t (F.significand x) := by
  obtain ⟨t, hsplit, hq, hsig, hlow⟩ := pattern_on_grid hF hx
  have hpos : (0 : ℚ) < (2 : ℚ) ^ F.gridExp t := by positivity
  refine ⟨t, hsplit, ⟨?_, ?_, ?_⟩⟩
  · rw [FloatFormat.magnitude, hq, mul_div_cancel_right₀ _ hpos.ne']
    exact ⟨by rw [sub_self, abs_zero]; norm_num, fun h => by rw [sub_self, abs_zero] at h; norm_num at h⟩
  · rw [FloatFormat.magnitude, hq]
    exact hlow.imp_right fun h => mul_le_mul_of_nonneg_right (by exact_mod_cast h) hpos.le
  · rw [FloatFormat.magnitude, hq]
    exact mul_lt_mul_of_pos_right (by exact_mod_cast hsig) hpos

theorem magnitude_lt_overflowFrom {F : FloatFormat} (hF : F.Usable) {x : Nat} (hx : x < F.infinity) :
    F.magnitude x < F.overflowFrom := by
  obtain ⟨t, hsplit, h⟩ := roundsTo_magnitude hF (hx.trans (infinity_lt_signBit hF))
  rw [← not_le, ← h.infinity_le_iff hF, ← hsplit]
  exact hx.not_ge

theorem eq_of_isRounded_magnitude {F : FloatFormat} (hF : F.Usable) {x y : Nat} (hy : y < F.infinity)
    (h : F.IsRounded (F.magnitude y) x) : x = y := by
  obtain ⟨hx, hnear⟩ := h.2 (magnitude_lt_overflowFrom hF hy)
  have hle := (hnear y hy).1
  rw [sub_self, abs_zero] at hle
  have heq : F.magnitude y = F.magnitude x := sub_eq_zero.1 (abs_eq_zero.1 (le_antisymm hle (abs_nonneg _)))
  exact (magnitude_injective hF (hy.trans (infinity_lt_signBit hF)) (hx.trans (infinity_lt_signBit hF)) heq).symm

/-! ### The product with 1.0 -/

theorem value_one {F : FloatFormat} (hF : F.Usable) : F.value F.one = .finite false F.hidden (-((F.p : Int) - 1)) := by
  have hw := hF.two_le_w
  have hpow : 2 ^ F.w = 2 * 2 ^ (F.w - 1) := by rw [← pow_succ', Nat.sub_add_cancel (by omega)]
  have htwo : 2 ≤ 2 ^ (F.w - 1) := by
    have hle := Nat.pow_le_pow_right (show 0 < 2 by decide) (show 1 ≤ F.w - 1 by omega)
    simpa using hle
  have hfields := value_signed_fields hF false (E := 2 ^ (F.w - 1) - 1) (M := 0) (by omega) (hidden_pos F)
  have hbias : ((2 ^ (F.w - 1) - 1 : Nat) : Int) - F.bias = 0 := by
    rw [FloatFormat.bias, Nat.cast_sub (by omega)]; push_cast; ring
  rw [if_neg (by omega), if_neg (by omega), add_zero, add_zero, hbias, zero_sub] at hfields
  exact hfields

theorem value_signed_finite {F : FloatFormat} (hF : F.Usable) (σ : Bool) {y : Nat} (hy : y < F.infinity) :
    F.value (F.signed σ y) = .finite σ (F.significand y) (F.quantum y) := by
  have hy' := hy.trans (infinity_lt_signBit hF)
  have hE : F.expBits y ≠ 2 ^ F.w - 1 := fun hE => by
    have hfields := fields_of_pattern hF hy'
    rw [hE, ← infinity_eq] at hfields
    omega
  rw [FloatFormat.value, FloatFormat.significand, FloatFormat.significand, FloatFormat.quantum, FloatFormat.quantum,
    expBits_signed hF, fracBits_signed hF, negative_signed hy', if_neg hE]

theorem mult_one {F : FloatFormat} (hF : F.Usable) (σ : Bool) {y : Nat} (hy : y < F.infinity) :
    F.mult (F.signed σ y) F.one = F.signed σ y := by
  have hunit : (F.hidden : ℚ) * (2 : ℚ) ^ (-((F.p : Int) - 1)) = 1 := by
    have hp := hF.two_le_p
    rw [FloatFormat.hidden, Nat.cast_pow, ← zpow_natCast, Nat.cast_ofNat, ← zpow_add₀ (by norm_num),
      Nat.cast_sub (by omega), Nat.cast_one, add_neg_cancel, zpow_zero]
  have hround := roundMagnitude_isRounded hF
    (F.significand y * F.hidden * powNum 2 (F.quantum y + -((F.p : Int) - 1)))
    (powDen_pos (b := 2) (by decide) (F.quantum y + -((F.p : Int) - 1)))
  rw [← product_eq_fraction, hunit, mul_one, ← FloatFormat.magnitude] at hround
  rw [mult_finite (value_signed_finite hF σ hy) (value_one hF), FloatFormat.round,
    eq_of_isRounded_magnitude hF hy hround, Bool.bne_false]

/-! ### The cast -/

theorem two_zpow_bias_le_overflowFrom {F : FloatFormat} : (2 : ℚ) ^ F.bias ≤ F.overflowFrom := by
  have hsmall : (2 : ℚ) ^ (F.bias - F.p) ≤ (2 : ℚ) ^ F.bias := zpow_le_zpow_right₀ (by norm_num) (by omega)
  rw [FloatFormat.overflowFrom, zpow_add_one₀ (by norm_num)]
  linarith

theorem natAbs_coef_lt_overflowFrom {F : FloatFormat} (hB : 56 ≤ F.bias) (a : Word) :
    ((coef a).natAbs : ℚ) < F.overflowFrom := by
  have hcoef : (coef a).natAbs < 2 ^ 56 := by
    have hb := coef_bounds a
    simp only [MINC, MAXC] at hb
    omega
  have hpow : (2 : ℚ) ^ (56 : Int) ≤ (2 : ℚ) ^ F.bias := zpow_le_zpow_right₀ (by norm_num) hB
  have hcast : ((coef a).natAbs : ℚ) < (2 : ℚ) ^ (56 : Int) := by exact_mod_cast hcoef
  exact hcast.trans_le (hpow.trans two_zpow_bias_le_overflowFrom)

theorem roundMagnitude_lt_infinity {F : FloatFormat} (hF : F.Usable) {n : Nat} (hn : (n : ℚ) < F.overflowFrom) :
    F.roundMagnitude n 1 < F.infinity := by
  have hround := (roundMagnitude_isRounded hF n Nat.one_pos).2
  rw [Nat.cast_one, div_one] at hround
  exact (hround hn).1

/-- At exponent 0 the power of ten is 1.0, so the product is the cast (R140, R141). -/
theorem toFloat_of_expo_zero {F : FloatFormat} (hF : F.Usable) (hB : 56 ≤ F.bias) {pow10 : Int → Nat}
    (hpow : pow10 0 = F.one) {a : Word} (he : expo a = 0) : toFloat F pow10 a = F.ofInt (coef a) := by
  have hn : isnan a = false := by
    rw [Bool.eq_false_iff, ne_eq, isnan_iff, he]; decide
  cases hz : iszero a with
  | true =>
    obtain ⟨hc, -⟩ := (iszero_iff a).1 hz
    rw [toFloat_of_iszero hz, hc]; rfl
  | false =>
    rw [toFloat_of_finite hn hz, he, hpow]
    exact mult_one hF _ (roundMagnitude_lt_infinity hF (natAbs_coef_lt_overflowFrom hB a))

/-- An integer of at most `p` bits, or `2^p` itself, is a whole number of last places of the grid that holds it. -/
theorem exists_grid_multiple {F : FloatFormat} (hF : F.Usable) {n t R : Nat} (hn : n ≤ 2 ^ F.p)
    (h : F.RoundsTo n t R) : ∃ m : Nat, (n : ℚ) = (m : ℚ) * (2 : ℚ) ^ F.gridExp t := by
  rcases le_or_gt (F.gridExp t) 0 with hle | hgt
  · obtain ⟨k, hk⟩ : ∃ k : Nat, F.gridExp t = -(k : Int) := ⟨(-F.gridExp t).toNat, by omega⟩
    refine ⟨n * 2 ^ k, ?_⟩
    rw [hk, zpow_neg, zpow_natCast, Nat.cast_mul, Nat.cast_pow, Nat.cast_ofNat, mul_assoc,
      mul_inv_cancel₀ (by positivity), mul_one]
  · have hbias := one_le_bias hF
    have hp := hF.two_le_p
    have ht : t ≠ 0 := by
      rintro rfl
      rw [FloatFormat.gridExp, FloatFormat.emin] at hgt
      omega
    have hone : (2 : ℚ) ≤ (2 : ℚ) ^ F.gridExp t := by
      have hpow := zpow_le_zpow_right₀ (show (1 : ℚ) ≤ 2 by norm_num) (show (1 : Int) ≤ F.gridExp t by omega)
      simpa using hpow
    have hhidden : (0 : ℚ) < F.hidden := by exact_mod_cast hidden_pos F
    have habove := h.above.resolve_left ht
    have hle : (n : ℚ) ≤ 2 * F.hidden := by
      rw [← two_hidden hF] at hn; exact_mod_cast hn
    have hexact : (n : ℚ) = F.hidden * (2 : ℚ) ^ F.gridExp t := by nlinarith
    exact ⟨F.hidden, hexact⟩

theorem magnitude_roundMagnitude_exact {F : FloatFormat} (hF : F.Usable) {n : Nat} (hn : n ≤ 2 ^ F.p)
    (hlt : (n : ℚ) < F.overflowFrom) : F.magnitude (F.roundMagnitude n 1) = n := by
  by_cases h0 : n = 0
  · subst h0
    rw [FloatFormat.roundMagnitude, if_pos rfl, magnitude_zero, Nat.cast_zero]
  obtain ⟨t, R, h, heq⟩ := roundMagnitude_roundsTo hF h0 Nat.one_pos
  rw [Nat.cast_one, div_one] at h
  obtain ⟨m, hm⟩ := exists_grid_multiple hF hn h
  have hpos : (0 : ℚ) < (2 : ℚ) ^ F.gridExp t := by positivity
  have hR : (R : ℚ) = m := by
    have hnear := (h.nearest.le m).1
    rw [hm, mul_div_cancel_right₀ _ hpos.ne', sub_self, abs_zero] at hnear
    exact (sub_eq_zero.1 (abs_eq_zero.1 (le_antisymm hnear (abs_nonneg _)))).symm
  have hx : t * F.hidden + R < F.infinity := not_le.1 (mt (h.infinity_le_iff hF).1 (not_le.2 hlt))
  rw [heq, min_eq_right hx.le, magnitude_grid hF (hx.trans (infinity_lt_signBit hF)) h.le_two_hidden h.hidden_le, hR,
    hm]

/-- A coefficient of at most `p` bits is cast exactly. -/
theorem magnitude_ofInt_exact {F : FloatFormat} (hF : F.Usable) (hB : 56 ≤ F.bias) {a : Word}
    (ha : (coef a).natAbs ≤ 2 ^ F.p) :
    F.magnitude (F.ofInt (coef a) % 2 ^ (F.w + F.p - 1)) = ((coef a).natAbs : ℚ) := by
  rw [FloatFormat.ofInt, FloatFormat.round, signed_mod (roundMagnitude_lt_signBit hF _ _)]
  exact magnitude_roundMagnitude_exact hF ha (natAbs_coef_lt_overflowFrom hB a)

/-- Settles O56. -/
theorem toFloatAtExponentZero : Obligations.ToFloatAtExponentZero := by
  intro a s he
  have hB32 : 56 ≤ binary32.bias := by decide
  have hB64 : 56 ≤ binary64.bias := by decide
  refine ⟨?_, ?_, (ofInt_isRounded usable_binary32 _).2, (ofInt_isRounded usable_binary64 _).2,
    magnitude_ofInt_exact usable_binary32 hB32, magnitude_ofInt_exact usable_binary64 hB64⟩
  · rw [exec_tof32, toFloat_of_expo_zero usable_binary32 hB32 pow10_32_zero he]
  · rw [exec_tof64, toFloat_of_expo_zero usable_binary64 hB64 pow10_64_zero he]

/-! ### FROMF of the special patterns -/

theorem exec_fromf32 (x : BitVec 32) (s : State) :
    exec (.fromf32 x) s = answerD (fromFloat binary32 x.toNat) s := rfl

theorem exec_fromf64 (x : BitVec 64) (s : State) :
    exec (.fromf64 x) s = answerD (fromFloat binary64 x.toNat) s := rfl

theorem fromFloat_of_nan {F : FloatFormat} {x : Nat} (hE : F.expBits x = 2 ^ F.w - 1) (hM : F.fracBits x ≠ 0) :
    fromFloat F x = ⟨NAN, FlagSet.none⟩ := by
  rw [fromFloat, FloatFormat.value, if_pos hE, if_neg hM]

theorem fromFloat_of_infinite {F : FloatFormat} {x : Nat} (hE : F.expBits x = 2 ^ F.w - 1) (hM : F.fracBits x = 0) :
    fromFloat F x = ⟨NAN, FlagSet.overflow⟩ := by
  rw [fromFloat, FloatFormat.value, if_pos hE, if_pos hM]

theorem value_of_finite {F : FloatFormat} {x : Nat} (hE : F.expBits x ≠ 2 ^ F.w - 1) :
    F.value x = .finite (F.negative x) (F.significand x) (F.quantum x) := if_neg hE

theorem fromFloat_of_zero {F : FloatFormat} {x : Nat} (hE : F.expBits x ≠ 2 ^ F.w - 1) (h0 : F.significand x = 0) :
    fromFloat F x = ⟨ZERO, FlagSet.none⟩ := by
  simp only [fromFloat, value_of_finite hE, h0, if_true]

theorem fromFloat_of_finite {F : FloatFormat} {x : Nat} (hE : F.expBits x ≠ 2 ^ F.w - 1) (h0 : F.significand x ≠ 0) :
    fromFloat F x = fromFinite F (F.negative x) (x % 2 ^ (F.w + F.p - 1)) := by
  simp only [fromFloat, value_of_finite hE, if_neg h0]

/-- A pattern stands for a zero exactly when all its bits below the sign are 0. -/
theorem significand_eq_zero_iff {F : FloatFormat} (hF : F.Usable) (x : Nat) :
    F.significand x = 0 ↔ x % 2 ^ (F.w + F.p - 1) = 0 := by
  have hpos := hidden_pos F
  have hsplit : x % 2 ^ (F.w + F.p - 1) = F.fracBits x + F.hidden * F.expBits x := by
    rw [two_pow_signBit hF, mul_comm, Nat.mod_mul]; rfl
  rw [hsplit, FloatFormat.significand, ← FloatFormat.hidden]
  split
  · next h0 => rw [h0, mul_zero, add_zero]
  · next h0 =>
    have hmul : 0 < F.hidden * F.expBits x := Nat.mul_pos hpos (Nat.pos_of_ne_zero h0)
    omega

theorem expBits_of_mod_eq_zero {F : FloatFormat} (hF : F.Usable) {x : Nat} (h : x % 2 ^ (F.w + F.p - 1) = 0) :
    F.expBits x = 0 := by
  by_contra h0
  have hsig := (significand_eq_zero_iff hF x).2 h
  have hpos := hidden_pos F
  rw [FloatFormat.significand, if_neg h0, ← FloatFormat.hidden] at hsig
  omega

/-- The fields of a format read from the bits of a pattern of its width. -/
theorem expBits_toNat {F : FloatFormat} {n : Nat} (x : BitVec n) :
    F.expBits x.toNat = (x.extractLsb' (F.p - 1) F.w).toNat := by
  rw [BitVec.extractLsb'_toNat, Nat.shiftRight_eq_div_pow]; rfl

theorem fracBits_toNat {F : FloatFormat} {n : Nat} (x : BitVec n) :
    F.fracBits x.toNat = (x.extractLsb' 0 (F.p - 1)).toNat := by
  rw [BitVec.extractLsb'_toNat, Nat.shiftRight_zero]; rfl

theorem mod_signBit_toNat {F : FloatFormat} {n : Nat} (x : BitVec n) :
    x.toNat % 2 ^ (F.w + F.p - 1) = (x.extractLsb' 0 (F.w + F.p - 1)).toNat := by
  rw [BitVec.extractLsb'_toNat, Nat.shiftRight_zero]

theorem fromFloat_of_mod_eq_zero {F : FloatFormat} (hF : F.Usable) {x : Nat} (h : x % 2 ^ (F.w + F.p - 1) = 0) :
    fromFloat F x = ⟨ZERO, FlagSet.none⟩ := by
  have hfour : 2 ^ 2 ≤ 2 ^ F.w := Nat.pow_le_pow_right (by decide) hF.two_le_w
  exact fromFloat_of_zero (by rw [expBits_of_mod_eq_zero hF h]; omega) ((significand_eq_zero_iff hF x).2 h)

/-- The three special classes of one format, by the fields of the pattern's bits. -/
theorem fromFloat_specials {F : FloatFormat} (hF : F.Usable) {n : Nat} (x : BitVec n) :
    ((x.extractLsb' (F.p - 1) F.w).toNat = 2 ^ F.w - 1 → x.extractLsb' 0 (F.p - 1) ≠ 0#(F.p - 1) →
      fromFloat F x.toNat = ⟨NAN, FlagSet.none⟩) ∧
    ((x.extractLsb' (F.p - 1) F.w).toNat = 2 ^ F.w - 1 → x.extractLsb' 0 (F.p - 1) = 0#(F.p - 1) →
      fromFloat F x.toNat = ⟨NAN, FlagSet.overflow⟩) ∧
    (x.extractLsb' 0 (F.w + F.p - 1) = 0#(F.w + F.p - 1) → fromFloat F x.toNat = ⟨ZERO, FlagSet.none⟩) := by
  refine ⟨fun hE hM => ?_, fun hE hM => ?_, fun h0 => ?_⟩
  · refine fromFloat_of_nan ((expBits_toNat x).trans hE) fun h => hM (BitVec.eq_of_toNat_eq ?_)
    rw [← fracBits_toNat, h]; rfl
  · exact fromFloat_of_infinite ((expBits_toNat x).trans hE) (by rw [fracBits_toNat, hM]; rfl)
  · exact fromFloat_of_mod_eq_zero hF (by rw [mod_signBit_toNat, h0]; rfl)

/-- Settles O57: the three classes in both formats. -/
theorem fromFloatSpecials : Obligations.FromFloatSpecials := by
  refine ⟨fun x s => ?_, fun x s => ?_⟩
  · obtain ⟨hnan, hinf, hzero⟩ := fromFloat_specials usable_binary32 x
    refine ⟨fun hE hM => ?_, fun hE hM => ?_, fun h0 => ?_⟩
    · rw [exec_fromf32, hnan (congrArg BitVec.toNat hE) hM]; rfl
    · rw [exec_fromf32, hinf (congrArg BitVec.toNat hE) hM]; rfl
    · rw [exec_fromf32, hzero h0]; rfl
  · obtain ⟨hnan, hinf, hzero⟩ := fromFloat_specials usable_binary64 x
    refine ⟨fun hE hM => ?_, fun hE hM => ?_, fun h0 => ?_⟩
    · rw [exec_fromf64, hnan (congrArg BitVec.toNat hE) hM]; rfl
    · rw [exec_fromf64, hinf (congrArg BitVec.toNat hE) hM]; rfl
    · rw [exec_fromf64, hzero h0]; rfl

end Sys2Proof.Machine
end

section
/-! Proofs about the digit search (44_conversions.md R144): the rounding interval, the candidate at an exponent, and what
the search and the removal of zeros return. -/

namespace Sys2Proof.Machine

/-! ### The interval as a set of numbers -/

/-- The interval of a positive number: it has a denominator, starts above 0 and has its number strictly inside. -/
structure RoundingInterval.Proper (I : RoundingInterval) : Prop where
  den_pos : 0 < I.den
  lo_pos : 0 < I.lo
  lo_lt_mid : I.lo < I.mid
  mid_lt_hi : I.mid < I.hi

/-- The number in the middle. -/
def RoundingInterval.center (I : RoundingInterval) : ℚ := (I.mid : ℚ) / I.den

/-- `v` lies in the interval; the ends belong to it when it is closed (R144). -/
def RoundingInterval.Holds (I : RoundingInterval) (v : ℚ) : Prop :=
  ((I.lo : ℚ) / I.den < v ∧ v < (I.hi : ℚ) / I.den) ∨
  (I.closed = true ∧ (I.lo : ℚ) / I.den ≤ v ∧ v ≤ (I.hi : ℚ) / I.den)

/-- The decimal `m * 10^k` (R144). -/
def decimal (m : Nat) (k : Int) : ℚ := (m : ℚ) * (10 : ℚ) ^ k

theorem decimal_le {m n : Nat} (h : m ≤ n) (k : Int) : decimal m k ≤ decimal n k :=
  mul_le_mul_of_nonneg_right (by exact_mod_cast h) (by positivity)

theorem decimal_lt {m n : Nat} (h : m < n) (k : Int) : decimal m k < decimal n k :=
  mul_lt_mul_of_pos_right (by exact_mod_cast h) (by positivity)

theorem decimal_succ (m : Nat) (k : Int) : decimal (m + 1) k = decimal m k + (10 : ℚ) ^ k := by
  rw [decimal, decimal]; push_cast; ring

theorem decimal_mul_ten_pow (m j : Nat) (k : Int) : decimal (m * 10 ^ j) k = decimal m (k + j) := by
  rw [decimal, decimal, ten_zpow_add_natCast]; push_cast; ring

theorem powNum_ten (k : Int) : (powNum 10 k : ℚ) = (10 : ℚ) ^ k * powDen 10 k := powNum_eq (by decide) k

theorem powDen_ten_pos (k : Int) : (0 : ℚ) < powDen 10 k := by exact_mod_cast powDen_pos (by decide) k

section
variable {I : RoundingInterval} (hI : I.Proper)
include hI

theorem den_cast_pos : (0 : ℚ) < I.den := by exact_mod_cast hI.den_pos

theorem lo_lt_center : (I.lo : ℚ) / I.den < I.center :=
  div_lt_div_of_pos_right (by exact_mod_cast hI.lo_lt_mid) (den_cast_pos hI)

theorem center_lt_hi : I.center < (I.hi : ℚ) / I.den :=
  div_lt_div_of_pos_right (by exact_mod_cast hI.mid_lt_hi) (den_cast_pos hI)

theorem inside_iff (m : Nat) (k : Int) : I.inside m k = true ↔ I.Holds (decimal m k) := by
  have hden := den_cast_pos hI
  have hpow := powDen_ten_pos k
  have hscale : ((m * powNum 10 k * I.den : Nat) : ℚ) = decimal m k * (powDen 10 k * I.den) := by
    rw [decimal, Nat.cast_mul, Nat.cast_mul, powNum_ten]; ring
  have hend (x : Nat) : ((x * powDen 10 k : Nat) : ℚ) = (x : ℚ) / I.den * (powDen 10 k * I.den) := by
    rw [Nat.cast_mul]; field_simp
  have hpos : 0 < (powDen 10 k : ℚ) * I.den := mul_pos hpow hden
  have hle (x : Nat) : x * powDen 10 k ≤ m * powNum 10 k * I.den ↔ (x : ℚ) / I.den ≤ decimal m k := by
    rw [← Nat.cast_le (α := ℚ), hscale, hend, mul_le_mul_iff_left₀ hpos]
  have hge (x : Nat) : m * powNum 10 k * I.den ≤ x * powDen 10 k ↔ decimal m k ≤ (x : ℚ) / I.den := by
    rw [← Nat.cast_le (α := ℚ), hscale, hend, mul_le_mul_iff_left₀ hpos]
  rw [RoundingInterval.inside, RoundingInterval.Holds]
  cases I.closed with
  | true =>
    simp only [if_true, decide_eq_true_eq, hle, hge, true_and]
    exact ⟨.inr, fun h => h.elim (fun h => ⟨h.1.le, h.2.le⟩) id⟩
  | false =>
    simp only [Bool.false_eq_true, if_false, decide_eq_true_eq, false_and, or_false]
    rw [← not_le, ← not_le, hle, hge, not_le, not_le]

theorem not_holds_zero (k : Int) : ¬I.Holds (decimal 0 k) := by
  have hlo : (0 : ℚ) < (I.lo : ℚ) / I.den := div_pos (by exact_mod_cast hI.lo_pos) (den_cast_pos hI)
  rw [decimal, Nat.cast_zero, zero_mul, RoundingInterval.Holds]
  rintro (⟨h, -⟩ | ⟨-, h, -⟩) <;> linarith

theorem pos_of_holds {m : Nat} {k : Int} (h : I.Holds (decimal m k)) : 0 < m :=
  Nat.pos_of_ne_zero fun h0 => not_holds_zero hI k (h0 ▸ h)

/-- The interval is convex, so it holds what lies between a number it holds and its centre. -/
theorem holds_between_below {v u : ℚ} (h : I.Holds v) (h1 : v ≤ u) (h2 : u ≤ I.center) : I.Holds u := by
  have hhi := center_lt_hi hI
  rcases h with ⟨hlo, -⟩ | ⟨hc, hlo, -⟩
  · exact .inl ⟨by linarith, by linarith⟩
  · exact .inr ⟨hc, by linarith, by linarith⟩

theorem holds_between_above {v u : ℚ} (h : I.Holds v) (h1 : u ≤ v) (h2 : I.center ≤ u) : I.Holds u := by
  have hlo := lo_lt_center hI
  rcases h with ⟨-, hhi⟩ | ⟨hc, -, hhi⟩
  · exact .inl ⟨by linarith, by linarith⟩
  · exact .inr ⟨hc, by linarith, by linarith⟩

/-! ### The candidate at an exponent -/

/-- `digitsAt` is the floor of the centre over `10^k`. -/
theorem digitsAt_spec (k : Int) :
    decimal (I.digitsAt k) k ≤ I.center ∧ I.center < decimal (I.digitsAt k + 1) k := by
  have hden := hI.den_pos
  have hpow : 0 < powNum 10 k := Nat.pow_pos (by decide)
  have hdiv : 0 < I.den * powNum 10 k := Nat.mul_pos hden hpow
  have hscale : (0 : ℚ) < I.den * powDen 10 k := mul_pos (den_cast_pos hI) (powDen_ten_pos k)
  have hcenter : I.center * (I.den * powDen 10 k) = ((I.mid * powDen 10 k : Nat) : ℚ) := by
    have hne := (den_cast_pos hI).ne'
    rw [RoundingInterval.center, Nat.cast_mul]; field_simp
  have hdecimal (n : Nat) : decimal n k * (I.den * powDen 10 k) = ((n * (I.den * powNum 10 k) : Nat) : ℚ) := by
    rw [decimal, Nat.cast_mul, Nat.cast_mul, powNum_ten]; ring
  refine ⟨le_of_mul_le_mul_right ?_ hscale, lt_of_mul_lt_mul_right ?_ hscale.le⟩
  · rw [hcenter, hdecimal]
    exact_mod_cast Nat.div_mul_le_self _ _
  · rw [hcenter, hdecimal]
    exact_mod_cast Nat.lt_mul_of_div_lt (Nat.lt_succ_self _) hdiv

/-- `distance` is the distance from the centre, over a common denominator. -/
theorem distance_lt_iff (m n : Nat) (k : Int) :
    I.distance m k < I.distance n k ↔ |decimal m k - I.center| < |decimal n k - I.center| := by
  have hscale : (0 : ℚ) < I.den * powDen 10 k := mul_pos (den_cast_pos hI) (powDen_ten_pos k)
  have hdistance (m : Nat) : (I.distance m k : ℚ) = |decimal m k - I.center| * (I.den * powDen 10 k) := by
    have hne := (den_cast_pos hI).ne'
    have hdiff : (((m * powNum 10 k * I.den : Nat) - (I.mid * powDen 10 k : Nat) : Int) : ℚ) =
        (decimal m k - I.center) * (I.den * powDen 10 k) := by
      rw [RoundingInterval.center, decimal]
      push_cast
      rw [powNum_ten]
      field_simp
    rw [RoundingInterval.distance, Nat.cast_natAbs, Int.cast_abs, hdiff, abs_mul, abs_of_pos hscale]
  rw [← Nat.cast_lt (α := ℚ), hdistance, hdistance, mul_lt_mul_iff_left₀ hscale]

/-- The multiple of `10^k` next below the centre is inside, and nearest, where any multiple below is inside. -/
theorem floor_nearest {n : Nat} {k : Int} (h : I.Holds (decimal n k)) (hn : n ≤ I.digitsAt k) :
    0 < I.digitsAt k ∧ I.Holds (decimal (I.digitsAt k) k) ∧
    |decimal (I.digitsAt k) k - I.center| ≤ |decimal n k - I.center| ∧
    (|decimal (I.digitsAt k) k - I.center| = |decimal n k - I.center| → n = I.digitsAt k) := by
  obtain ⟨hfloor, -⟩ := digitsAt_spec hI k
  have hle := decimal_le hn k
  refine ⟨(pos_of_holds hI h).trans_le hn, holds_between_below hI h hle hfloor, ?_, fun heq => ?_⟩
  · rw [abs_of_nonpos (by linarith), abs_of_nonpos (by linarith)]
    linarith
  · rw [abs_of_nonpos (by linarith), abs_of_nonpos (by linarith)] at heq
    by_contra hne
    have hlt := decimal_lt (lt_of_le_of_ne hn hne) k
    linarith

/-- Likewise for the multiple next above. -/
theorem ceil_nearest {n : Nat} {k : Int} (h : I.Holds (decimal n k)) (hn : I.digitsAt k < n) :
    I.Holds (decimal (I.digitsAt k + 1) k) ∧
    |decimal (I.digitsAt k + 1) k - I.center| ≤ |decimal n k - I.center| ∧
    (|decimal (I.digitsAt k + 1) k - I.center| = |decimal n k - I.center| → n = I.digitsAt k + 1) := by
  obtain ⟨-, hceil⟩ := digitsAt_spec hI k
  have hle := decimal_le (Nat.succ_le_of_lt hn) k
  rw [Nat.succ_eq_add_one] at hle
  refine ⟨holds_between_above hI h hle hceil.le, ?_, fun heq => ?_⟩
  · rw [abs_of_nonneg (by linarith), abs_of_nonneg (by linarith)]
    linarith
  · rw [abs_of_nonneg (by linarith), abs_of_nonneg (by linarith)] at heq
    by_contra hne
    have hlt := decimal_lt (lt_of_le_of_ne (Nat.succ_le_of_lt hn) (Ne.symm hne)) k
    rw [Nat.succ_eq_add_one] at hlt
    linarith

/-- The two tests of `candidate`. -/
theorem floorTest_iff (k : Int) :
    (decide (0 < I.digitsAt k) && I.inside (I.digitsAt k) k) = true ↔
      0 < I.digitsAt k ∧ I.Holds (decimal (I.digitsAt k) k) := by
  rw [Bool.and_eq_true, decide_eq_true_iff, inside_iff hI]

/-- Without a candidate no multiple of `10^k` is inside. -/
theorem candidate_none {k : Int} (h : I.candidate k = none) (n : Nat) : ¬I.Holds (decimal n k) := by
  intro hn
  rw [RoundingInterval.candidate] at h
  split at h
  · next hfloor hceil =>
    rcases Nat.lt_or_ge (I.digitsAt k) n with hlt | hge
    · rw [(inside_iff hI _ _).2 (ceil_nearest hI hn hlt).1] at hceil
      cases hceil
    · obtain ⟨hpos, hin, -⟩ := floor_nearest hI hn hge
      rw [(floorTest_iff hI k).2 ⟨hpos, hin⟩] at hfloor
      cases hfloor
  · cases h
  · cases h
  · split_ifs at h

/-- `m` is what R144 takes at the exponent `k`: inside, next to the centre, and of the multiples inside the nearest, even
where another is as near. -/
structure RoundingInterval.IsBest (I : RoundingInterval) (m : Nat) (k : Int) : Prop where
  holds : I.Holds (decimal m k)
  next : m = I.digitsAt k ∨ m = I.digitsAt k + 1
  nearest : ∀ n : Nat, I.Holds (decimal n k) →
    |decimal m k - I.center| ≤ |decimal n k - I.center| ∧
    (|decimal m k - I.center| = |decimal n k - I.center| → n = m ∨ m % 2 = 0)

/-- Only the multiple below is inside, so no multiple above is. -/
theorem isBest_floor {k : Int} (hin : I.Holds (decimal (I.digitsAt k) k))
    (hbetter : ∀ n, I.digitsAt k < n → I.Holds (decimal n k) →
      |decimal (I.digitsAt k) k - I.center| ≤ |decimal (I.digitsAt k + 1) k - I.center| ∧
      (|decimal (I.digitsAt k) k - I.center| = |decimal (I.digitsAt k + 1) k - I.center| → I.digitsAt k % 2 = 0)) :
    I.IsBest (I.digitsAt k) k := by
  refine ⟨hin, .inl rfl, fun n hn => ?_⟩
  rcases Nat.lt_or_ge (I.digitsAt k) n with hlt | hge
  · obtain ⟨hle, htie⟩ := hbetter n hlt hn
    obtain ⟨-, hceil, -⟩ := ceil_nearest hI hn hlt
    exact ⟨hle.trans hceil, fun heq => .inr (htie (by linarith))⟩
  · obtain ⟨-, -, hle, heq⟩ := floor_nearest hI hn hge
    exact ⟨hle, fun h => .inl (heq h)⟩

theorem isBest_ceil {k : Int} (hin : I.Holds (decimal (I.digitsAt k + 1) k))
    (hbetter : ∀ n, n ≤ I.digitsAt k → I.Holds (decimal n k) →
      |decimal (I.digitsAt k + 1) k - I.center| ≤ |decimal (I.digitsAt k) k - I.center| ∧
      (|decimal (I.digitsAt k + 1) k - I.center| = |decimal (I.digitsAt k) k - I.center| →
        (I.digitsAt k + 1) % 2 = 0)) :
    I.IsBest (I.digitsAt k + 1) k := by
  refine ⟨hin, .inr rfl, fun n hn => ?_⟩
  rcases Nat.lt_or_ge (I.digitsAt k) n with hlt | hge
  · obtain ⟨-, hle, heq⟩ := ceil_nearest hI hn hlt
    exact ⟨hle, fun h => .inl (heq h)⟩
  · obtain ⟨hle, htie⟩ := hbetter n hge hn
    obtain ⟨-, -, hfloor, -⟩ := floor_nearest hI hn hge
    exact ⟨hle.trans hfloor, fun heq => .inr (htie (by linarith))⟩

theorem candidate_some {k : Int} {m : Nat} (h : I.candidate k = some m) : I.IsBest m k := by
  rw [RoundingInterval.candidate] at h
  split at h
  · cases h
  · next hfloor hceil =>
    obtain rfl := Option.some.inj h
    refine isBest_floor hI ((floorTest_iff hI k).1 hfloor).2 fun n hlt hn => ?_
    rw [(inside_iff hI _ _).2 (ceil_nearest hI hn hlt).1] at hceil
    cases hceil
  · next hfloor hceil =>
    obtain rfl := Option.some.inj h
    refine isBest_ceil hI ((inside_iff hI _ _).1 hceil) fun n hle hn => ?_
    obtain ⟨hpos, hin, -⟩ := floor_nearest hI hn hle
    rw [(floorTest_iff hI k).2 ⟨hpos, hin⟩] at hfloor
    cases hfloor
  · next hfloor hceil =>
    have hin := ((floorTest_iff hI k).1 hfloor).2
    have hin' := (inside_iff hI _ _).1 hceil
    simp only [distance_lt_iff hI] at h
    split_ifs at h with h1 h2 heven
    · obtain rfl := Option.some.inj h
      exact isBest_floor hI hin fun _ _ _ => ⟨h1.le, fun heq => absurd heq h1.ne⟩
    · obtain rfl := Option.some.inj h
      exact isBest_ceil hI hin' fun _ _ _ => ⟨h2.le, fun heq => absurd heq h2.ne⟩
    · obtain rfl := Option.some.inj h
      exact isBest_floor hI hin fun _ _ _ => ⟨not_lt.1 h2, fun _ => heven⟩
    · obtain rfl := Option.some.inj h
      exact isBest_ceil hI hin' fun _ _ _ => ⟨not_lt.1 h1, fun _ => by omega⟩

/-- Where `10^k` is less than the way from the centre to the upper end, the multiple next above is inside. -/
theorem candidate_ne_none {k : Int} (h : I.center + (10 : ℚ) ^ k < (I.hi : ℚ) / I.den) : I.candidate k ≠ none := by
  obtain ⟨hfloor, hceil⟩ := digitsAt_spec hI k
  have hlo := lo_lt_center hI
  have hsucc := decimal_succ (I.digitsAt k) k
  exact fun hnone => candidate_none hI hnone (I.digitsAt k + 1) (.inl ⟨by linarith, by linarith⟩)

end

/-! ### The search -/

/-- The search stops at the first exponent with a candidate. -/
theorem search_some {I : RoundingInterval} {n : Nat} {k : Int} {r : Nat × Int} (h : I.search n k = some r) :
    ∃ i m : Nat, I.candidate (k - i) = some m ∧ r = stripZeros (digitCount m) m (k - i) ∧
      ∀ j : Nat, j < i → I.candidate (k - j) = none := by
  induction n generalizing k with
  | zero => cases h
  | succ n ih =>
    rw [RoundingInterval.search] at h
    split at h
    · next m hm =>
      exact ⟨0, m, by rw [Nat.cast_zero, sub_zero, hm], by rw [Nat.cast_zero, sub_zero]; exact (Option.some.inj h).symm,
        fun j hj => absurd hj (Nat.not_lt_zero j)⟩
    · next hm =>
      have hexp (i : Nat) : k - 1 - (i : Int) = k - ((i + 1 : Nat) : Int) := by push_cast; ring
      obtain ⟨i, m, hc, hr, hbefore⟩ := ih h
      rw [hexp] at hc hr
      refine ⟨i + 1, m, hc, hr, fun j hj => ?_⟩
      cases j with
      | zero => rw [Nat.cast_zero, sub_zero, hm]
      | succ j => rw [← hexp]; exact hbefore j (by omega)

theorem search_isSome {I : RoundingInterval} {n i : Nat} {k : Int} (hi : i < n) (h : I.candidate (k - i) ≠ none) :
    ∃ r, I.search n k = some r := by
  induction n generalizing i k with
  | zero => exact absurd hi (Nat.not_lt_zero i)
  | succ n ih =>
    rw [RoundingInterval.search]
    split
    · exact ⟨_, rfl⟩
    · next hm =>
      cases i with
      | zero => exact absurd (by rw [Nat.cast_zero, sub_zero]; exact hm) h
      | succ i =>
        refine ih (i := i) (by omega) ?_
        rwa [show k - 1 - (i : Int) = k - ((i + 1 : Nat) : Int) by push_cast; ring]

/-! ### Digit counts and trailing zeros -/

theorem decimalLength_eq {k n : Nat} (h : n < 10 ^ k) : decimalLength k n = (Nat.digits 10 n).length := by
  induction k generalizing n with
  | zero =>
    obtain rfl : n = 0 := by simpa using h
    rfl
  | succ k ih =>
    rw [decimalLength]
    split
    · next h0 => rw [h0]; rfl
    · next h0 =>
      rw [ih (Nat.div_lt_of_lt_mul (by rwa [pow_succ'] at h)), Nat.digits_def' (by decide) (Nat.pos_of_ne_zero h0),
        List.length_cons]

theorem digitCount_eq (n : Nat) : digitCount n = (Nat.digits 10 n).length := by
  have htwo : 2 ^ (n.log2 + 1) ≤ 10 ^ (n.log2 + 1) := Nat.pow_le_pow_left (by decide) _
  exact decimalLength_eq (Nat.lt_log2_self.trans_le htwo)

theorem lt_ten_pow_digitCount (n : Nat) : n < 10 ^ digitCount n := by
  rw [digitCount_eq]
  exact Nat.lt_base_pow_length_digits (by decide)

theorem ten_pow_le_of_lt_digitCount {n j : Nat} (h : j < digitCount n) : 10 ^ j ≤ n := by
  rwa [digitCount_eq, Nat.lt_digits_length_iff (by decide)] at h

/-- Removing zeros moves them into the exponent, and removes all of them. -/
theorem stripZeros_spec {n m : Nat} {k : Int} {m' : Nat} {k' : Int} (h : stripZeros n m k = (m', k')) :
    ∃ s : Nat, m = m' * 10 ^ s ∧ k' = k + s ∧ (0 < m → m < 10 ^ n → m' % 10 ≠ 0) := by
  induction n generalizing m k with
  | zero =>
    obtain ⟨rfl, rfl⟩ := Prod.mk.inj h
    exact ⟨0, by simp, by simp, fun h1 h2 => by simp at h2; omega⟩
  | succ n ih =>
    rw [stripZeros] at h
    split at h
    · next h0 =>
      obtain ⟨s, hm, hk, hne⟩ := ih h
      refine ⟨s + 1, ?_, by rw [hk]; push_cast; ring, fun h1 h2 => hne (by omega) ?_⟩
      · rw [pow_succ, ← mul_assoc, ← hm]; omega
      · rw [pow_succ] at h2; omega
    · next h0 =>
      obtain ⟨rfl, rfl⟩ := Prod.mk.inj h
      exact ⟨0, by simp, by simp, fun _ _ => h0⟩

/-- `floorLog10` is the floor of the decimal logarithm. -/
theorem floorLog10_spec {num den : Nat} (hn : num ≠ 0) (hd : den ≠ 0) :
    (10 : ℚ) ^ floorLog10 num den ≤ (num : ℚ) / den ∧ (num : ℚ) / den < (10 : ℚ) ^ (floorLog10 num den + 1) := by
  have hden : (0 : ℚ) < den := by positivity
  have hupper (n : Nat) : (n : ℚ) < (10 : ℚ) ^ (digitCount n : Int) := by
    rw [zpow_natCast]; exact_mod_cast lt_ten_pow_digitCount n
  have hlower {n : Nat} (h0 : n ≠ 0) : (10 : ℚ) ^ ((digitCount n : Int) - 1) ≤ n := by
    obtain ⟨j, hj⟩ : ∃ j, digitCount n = j + 1 := ⟨digitCount n - 1, by
      have hlt := lt_ten_pow_digitCount n
      rcases Nat.eq_zero_or_pos (digitCount n) with hz | hpos
      · rw [hz, pow_zero] at hlt; omega
      · omega⟩
    have hle := ten_pow_le_of_lt_digitCount (n := n) (j := j) (by omega)
    rw [hj, show ((j + 1 : Nat) : Int) - 1 = (j : Int) by push_cast; ring, zpow_natCast]
    exact_mod_cast hle
  refine floorLog_correct (b := 10) (by decide) (Nat.pos_of_ne_zero hd) ?_ ?_
  · rw [le_div_iff₀ hden]
    calc (10 : ℚ) ^ ((digitCount num : Int) - digitCount den - 1) * den
        ≤ (10 : ℚ) ^ ((digitCount num : Int) - digitCount den - 1) * (10 : ℚ) ^ (digitCount den : Int) :=
          mul_le_mul_of_nonneg_left (hupper den).le (by positivity)
      _ = (10 : ℚ) ^ ((digitCount num : Int) - 1) := by rw [← zpow_add₀ (by norm_num)]; congr 1; ring
      _ ≤ num := hlower hn
  · rw [div_lt_iff₀ hden]
    calc (num : ℚ) < (10 : ℚ) ^ (digitCount num : Int) := hupper num
      _ = (10 : ℚ) ^ ((digitCount num : Int) - digitCount den + 1) * (10 : ℚ) ^ ((digitCount den : Int) - 1) := by
          rw [← zpow_add₀ (by norm_num)]; congr 1; ring
      _ ≤ (10 : ℚ) ^ ((digitCount num : Int) - digitCount den + 1) * den :=
          mul_le_mul_of_nonneg_left (hlower hd) (by positivity)

end Sys2Proof.Machine
end

section
/-! Proofs about the shortest digits of a float (44_conversions.md R144): the interval is the set of numbers that round to
it, the search succeeds, and its digits are fewest and nearest. -/

namespace Sys2Proof.Machine

/-! ### The digits that a search returns -/

/-- A search from the exponent of the leading digit down: it stops after `i` further digits, at `m0 * 10^(L - i)`, and
`(m, k)` is that without trailing zeros. -/
structure RoundingInterval.Found (I : RoundingInterval) (L : Int) (i m0 s m : Nat) (k : Int) : Prop where
  lower : (10 : ℚ) ^ L ≤ I.center
  upper : I.center < (10 : ℚ) ^ (L + 1)
  best : I.IsBest m0 (L - i)
  first : ∀ j : Nat, j < i → ∀ n : Nat, ¬I.Holds (decimal n (L - j))
  split : m0 = m * 10 ^ s
  exp : k = L - i + s
  stripped : m % 10 ≠ 0

theorem search_found {I : RoundingInterval} (hI : I.Proper) {L : Int} (h1 : (10 : ℚ) ^ L ≤ I.center)
    (h2 : I.center < (10 : ℚ) ^ (L + 1)) {n m : Nat} {k : Int} (h : I.search n L = some (m, k)) :
    ∃ i m0 s, I.Found L i m0 s m k := by
  obtain ⟨i, m0, hc, hr, hbefore⟩ := search_some h
  obtain ⟨s, hsplit, hexp, hstripped⟩ := stripZeros_spec hr.symm
  have hbest := candidate_some hI hc
  exact ⟨i, m0, s, h1, h2, hbest, fun j hj => candidate_none hI (hbefore j hj), hsplit, hexp,
    hstripped (pos_of_holds hI hbest.holds) (lt_ten_pow_digitCount m0)⟩

section
variable {I : RoundingInterval} (hI : I.Proper) {L : Int} {i m0 s m : Nat} {k : Int} (h : I.Found L i m0 s m k)

theorem one_decimal (k : Int) : decimal 1 k = (10 : ℚ) ^ k := by rw [decimal, Nat.cast_one, one_mul]

theorem ten_decimal (k : Int) : decimal 10 k = (10 : ℚ) ^ (k + 1) := by
  have hshift := decimal_mul_ten_pow 1 1 k
  rwa [one_decimal] at hshift

include h

theorem RoundingInterval.Found.decimal_eq : decimal m k = decimal m0 (L - i) := by
  rw [h.split, decimal_mul_ten_pow, h.exp]

include hI

theorem RoundingInterval.Found.digitsAt_lt : I.digitsAt (L - i) < 10 ^ (i + 1) := by
  obtain ⟨hfloor, -⟩ := digitsAt_spec hI (L - i)
  have htop : decimal (10 ^ (i + 1)) (L - i) = (10 : ℚ) ^ (L + 1) := by
    rw [← one_mul (10 ^ (i + 1)), decimal_mul_ten_pow, one_decimal]
    congr 1
    push_cast
    ring
  by_contra hge
  have hle := decimal_le (not_lt.1 hge) (L - i)
  linarith [h.upper]

theorem RoundingInterval.Found.le_ten_pow : m0 ≤ 10 ^ (i + 1) := by
  have hlt := h.digitsAt_lt hI
  rcases h.best.next with h0 | h0 <;> omega

/-- The digits are at most one more than the further steps of the search. -/
theorem RoundingInterval.Found.lt_ten_pow : m < 10 ^ (i + 1) := by
  have hle : m ≤ m0 := by
    rw [h.split]
    exact Nat.le_mul_of_pos_right _ (Nat.pow_pos (show 0 < 10 by decide))
  have hne : m ≠ 10 ^ (i + 1) := by
    rintro rfl
    exact h.stripped (by rw [pow_succ, Nat.mul_mod_left])
  exact lt_of_le_of_ne (hle.trans (h.le_ten_pow hI)) hne

/-- Nothing at or below the leading power of ten is inside, unless the search stopped at once. -/
theorem RoundingInterval.Found.lower_holds {v : ℚ} (hv : I.Holds v) (hle : v ≤ (10 : ℚ) ^ L) :
    i = 0 ∧ I.Holds (decimal 1 L) := by
  have hone : I.Holds (decimal 1 L) := by
    rw [one_decimal]
    exact holds_between_below hI hv hle h.lower
  refine ⟨Nat.eq_zero_of_not_pos fun hpos => h.first 0 hpos 1 ?_, hone⟩
  rwa [Nat.cast_zero, sub_zero]

theorem RoundingInterval.Found.upper_holds {v : ℚ} (hv : I.Holds v) (hle : (10 : ℚ) ^ (L + 1) ≤ v) : i = 0 := by
  refine Nat.eq_zero_of_not_pos fun hpos => h.first 0 hpos 10 ?_
  rw [Nat.cast_zero, sub_zero, ten_decimal]
  exact holds_between_above hI hv hle h.upper.le

/-- Whatever decimal is inside has more digits than the search took further steps: with fewer, it would be a multiple of
a power of ten that was tried before. -/
theorem RoundingInterval.Found.ten_pow_le {m' : Nat} {k' : Int} (hin : I.Holds (decimal m' k')) : 10 ^ i ≤ m' := by
  by_contra hlt
  have hpos := pos_of_holds hI hin
  have hi : i ≠ 0 := by rintro rfl; simp at hlt; omega
  have hlow : (10 : ℚ) ^ L < decimal m' k' := not_le.1 fun hle => hi (h.lower_holds hI hin hle).1
  have hbound : decimal m' k' < (10 : ℚ) ^ ((i : Int) + k') := by
    have hdecimal := decimal_lt (not_le.1 hlt) k'
    rw [← one_mul (10 ^ i), decimal_mul_ten_pow, one_decimal] at hdecimal
    rwa [add_comm]
  have hexp : L < i + k' := (zpow_lt_zpow_iff_right₀ (by norm_num : (1 : ℚ) < 10)).1 (hlow.trans hbound)
  have hshift : decimal m' k' = decimal (m' * 10 ^ (k' - (L - (i - 1 : Nat))).toNat) (L - (i - 1 : Nat)) := by
    rw [decimal_mul_ten_pow]
    congr 1
    omega
  exact h.first (i - 1) (by omega) _ (hshift ▸ hin)

/-- No decimal inside has fewer digits (R144 property (2)). -/
theorem RoundingInterval.Found.fewest {m' : Nat} {k' : Int} (hin : I.Holds (decimal m' k')) :
    (Nat.digits 10 m).length ≤ (Nat.digits 10 m').length := by
  have hm := (Nat.digits_length_le_iff (by decide) m).2 (h.lt_ten_pow hI)
  have hm' := (Nat.lt_digits_length_iff (by decide) m').2 (h.ten_pow_le hI hin)
  omega

/-- The digits before the zeros were removed are these, or a power of ten that the first step rounded up to. -/
theorem RoundingInterval.Found.unstripped (hlow : 10 ^ i ≤ m) : m0 = m ∨ (i = 0 ∧ m0 = 10) := by
  have hle := h.le_ten_pow hI
  have hsplit := h.split
  rcases Nat.eq_zero_or_pos s with rfl | hs
  · exact .inl (by simpa using hsplit)
  · have hten : 10 ≤ 10 ^ s := by
      have hpow := Nat.pow_le_pow_right (show 0 < 10 by decide) hs
      simpa using hpow
    have hprod : 10 ^ i * 10 ≤ m0 := hsplit ▸ Nat.mul_le_mul hlow hten
    rw [pow_succ] at hle
    have heq : m * 10 ^ s = 10 ^ i * 10 := by omega
    have hm : m = 10 ^ i := by
      by_contra hne
      have hlt : 10 ^ i * 10 < m * 10 ^ s :=
        Nat.mul_lt_mul_of_lt_of_le (lt_of_le_of_ne hlow (Ne.symm hne)) hten (Nat.pow_pos (by decide))
      omega
    have hi : i = 0 := by
      by_contra hi
      obtain ⟨j, rfl⟩ : ∃ j, i = j + 1 := ⟨i - 1, by omega⟩
      exact h.stripped (by rw [hm, pow_succ, Nat.mul_mod_left])
    refine .inr ⟨hi, ?_⟩
    rw [hsplit, heq, hi]
    rfl

/-- Rounded up to 10 at the first step with another digit as near: the centre is `9.5 * 10^L`, with both neighbours
inside. -/
theorem RoundingInterval.Found.tie_at_ten (hi : i = 0) (h10 : m0 = 10) {n : Nat} (hn : I.Holds (decimal n L))
    (hne : n ≠ 10) (htie : |decimal 10 L - I.center| = |decimal n L - I.center|) :
    2 * I.center = 19 * (10 : ℚ) ^ L ∧ I.Holds (decimal 9 L) ∧ I.Holds (decimal 10 L) := by
  subst hi h10
  have hbest := h.best
  have hlt := h.digitsAt_lt hI
  rw [Nat.cast_zero, sub_zero] at hbest hlt
  have hdigits : I.digitsAt L = 9 := by
    have hnext := hbest.next
    omega
  obtain ⟨hfloor, hceil⟩ := digitsAt_spec hI L
  rw [hdigits] at hfloor hceil
  have hn9 : n ≤ 9 := by
    by_contra hgt
    have habove := decimal_lt (show 10 < n by omega) L
    rw [abs_of_pos (by linarith), abs_of_pos (by linarith)] at htie
    linarith
  have hnine : I.Holds (decimal 9 L) := by
    have hnear := (floor_nearest hI hn (by omega)).2.1
    rwa [hdigits] at hnear
  have hle := (hbest.nearest 9 hnine).1
  have hmono := decimal_le hn9 L
  rw [abs_of_pos (by linarith), abs_of_nonpos (by linarith)] at htie
  rw [abs_of_pos (by linarith), abs_of_nonpos (by linarith)] at hle
  refine ⟨?_, hnine, hbest.holds⟩
  have hsum : 2 * I.center = decimal 9 L + decimal 10 L := by linarith
  rw [hsum, decimal, decimal]
  push_cast
  ring

/-- Of the decimals inside with as many digits none is nearer, and where another is as near the last digit is even
(R144 property (3)); the one exception that the search itself leaves is `9.5 * 10^L`. -/
theorem RoundingInterval.Found.nearest {m' : Nat} {k' : Int} (hin : I.Holds (decimal m' k'))
    (hlen : (Nat.digits 10 m').length = (Nat.digits 10 m).length) :
    |decimal m k - I.center| ≤ |decimal m' k' - I.center| ∧
    (|decimal m k - I.center| = |decimal m' k' - I.center| →
      decimal m' k' = decimal m k ∨ m % 2 = 0 ∨
        (2 * I.center = 19 * (10 : ℚ) ^ L ∧ I.Holds (decimal 9 L) ∧ I.Holds (decimal 10 L))) := by
  have hlong := (Nat.lt_digits_length_iff (by decide) m').2 (h.ten_pow_le hI hin)
  have hlow : 10 ^ i ≤ m := (Nat.lt_digits_length_iff (by decide) m).1 (by omega)
  have hshort := (Nat.digits_length_le_iff (by decide) m).2 (h.lt_ten_pow hI)
  have hm' : m' < 10 ^ (i + 1) := (Nat.digits_length_le_iff (by decide) m').1 (by omega)
  rw [h.decimal_eq]
  rcases le_or_gt (L - i) k' with hge | hlt
  · have hshift : decimal m' k' = decimal (m' * 10 ^ (k' - (L - i)).toNat) (L - i) := by
      rw [decimal_mul_ten_pow]
      congr 1
      omega
    rw [hshift] at hin ⊢
    obtain ⟨hle, htie⟩ := h.best.nearest _ hin
    refine ⟨hle, fun heq => ?_⟩
    by_cases hsame : m' * 10 ^ (k' - (L - i)).toNat = m0
    · exact .inl (by rw [hsame])
    have heven := (htie heq).resolve_left hsame
    rcases h.unstripped hI hlow with rfl | ⟨rfl, rfl⟩
    · exact .inr (.inl heven)
    · rw [Nat.cast_zero, sub_zero] at hin heq hsame
      exact .inr (.inr (h.tie_at_ten hI rfl rfl hin hsame heq))
  · have hsmall : decimal m' k' < (10 : ℚ) ^ L := by
      have hdecimal := decimal_lt hm' k'
      rw [← one_mul (10 ^ (i + 1)), decimal_mul_ten_pow, one_decimal] at hdecimal
      exact hdecimal.trans_le (zpow_le_zpow_right₀ (by norm_num) (by push_cast; omega))
    obtain ⟨rfl, hone⟩ := h.lower_holds hI hin hsmall.le
    have hbest := h.best
    rw [Nat.cast_zero, sub_zero] at hbest ⊢
    have hle := (hbest.nearest 1 hone).1
    have hlower := h.lower
    rw [one_decimal, abs_of_nonpos (show (10 : ℚ) ^ L - I.center ≤ 0 by linarith)] at hle
    have hstrict : |decimal m0 L - I.center| < |decimal m' k' - I.center| := by
      rw [abs_of_neg (show decimal m' k' - I.center < 0 by linarith)]
      linarith
    exact ⟨hstrict.le, fun heq => absurd heq hstrict.ne⟩

end

/-! ### The interval of a pattern -/

theorem quantum_pred {F : FloatFormat} (hF : F.Usable) {x : Nat} (h0 : 0 < x) (hx : x < 2 ^ (F.w + F.p - 1)) :
    F.quantum (x - 1) = if F.fracBits x = 0 ∧ 1 < F.expBits x then F.quantum x - 1 else F.quantum x := by
  have hpos := hidden_pos F
  have hfields := fields_of_pattern hF hx
  have hM : F.fracBits x < F.hidden := Nat.mod_lt _ hpos
  have hE : F.expBits x < 2 ^ F.w := Nat.mod_lt _ (Nat.two_pow_pos _)
  rcases Nat.eq_zero_or_pos (F.fracBits x) with hM0 | hMpos
  · obtain ⟨E, hE1⟩ : ∃ E, F.expBits x = E + 1 := ⟨F.expBits x - 1, by
      rcases Nat.eq_zero_or_pos (F.expBits x) with hz | hpos
      · rw [hz, hM0] at hfields; omega
      · omega⟩
    have hpred : x - 1 = E * F.hidden + (F.hidden - 1) := by
      rw [hE1, hM0, add_mul] at hfields; omega
    have hexp : F.expBits (x - 1) = E :=
      (congrArg F.expBits hpred).trans (expBits_fields (by omega) (by omega))
    rw [FloatFormat.quantum, FloatFormat.quantum, hexp, hE1, hM0, FloatFormat.emin]
    rcases Nat.eq_zero_or_pos E with rfl | hEpos
    · simp
    · rw [if_neg (by omega), if_pos ⟨rfl, by omega⟩, if_neg (by omega)]
      push_cast
      ring
  · have hpred : x - 1 = F.expBits x * F.hidden + (F.fracBits x - 1) := by omega
    have hexp : F.expBits (x - 1) = F.expBits x :=
      (congrArg F.expBits hpred).trans (expBits_fields hE (by omega))
    rw [FloatFormat.quantum, FloatFormat.quantum, hexp,
      if_neg (show ¬(F.fracBits x = 0 ∧ 1 < F.expBits x) by omega)]

/-! ### Midpoints and fractions -/

theorem decimal_eq_fraction (m : Nat) (k : Int) :
    decimal m k = ((m * powNum 10 k : Nat) : ℚ) / (powDen 10 k : Nat) := by
  rw [Nat.cast_mul, powNum_ten, ← mul_assoc, mul_div_cancel_right₀ _ (powDen_ten_pos k).ne', decimal]

/-- Of two points the upper is at least as near from the midpoint on. -/
theorem abs_sub_upper_le_iff {p q v : ℚ} (hpq : p < q) : |v - q| ≤ |v - p| ↔ (p + q) / 2 ≤ v := by
  refine ⟨fun h => not_lt.1 fun hlt => ?_, fun h => ?_⟩
  · have hnear : |v - p| < q - v := abs_lt.2 ⟨by linarith, by linarith⟩
    rw [abs_sub_comm v q, abs_of_pos (by linarith)] at h
    linarith
  · rw [abs_of_pos (show 0 < v - p by linarith)]
    exact abs_le.2 ⟨by linarith, by linarith⟩

theorem abs_sub_lower_le_iff {p q v : ℚ} (hpq : p < q) : |v - p| ≤ |v - q| ↔ v ≤ (p + q) / 2 := by
  have hneg := abs_sub_upper_le_iff (v := -v) (neg_lt_neg hpq)
  rw [neg_sub_neg, neg_sub_neg, abs_sub_comm p, abs_sub_comm q] at hneg
  rw [hneg, ← neg_add, neg_div, neg_le_neg_iff, add_comm]

theorem abs_sub_eq_of_midpoint {p q v : ℚ} (hpq : p < q) (hv : v = (p + q) / 2) : |v - p| = |v - q| :=
  le_antisymm ((abs_sub_lower_le_iff hpq).2 hv.le) ((abs_sub_upper_le_iff hpq).2 hv.ge)

section
variable {F : FloatFormat} (hF : F.Usable) {x : Nat} (h0 : 0 < x) (hx : x < F.infinity)

theorem interval_den_pos (F : FloatFormat) (x : Nat) : 0 < (F.interval x).den :=
  Nat.mul_pos (by decide) (Nat.pow_pos (by decide))

theorem interval_scaled (F : FloatFormat) (x n : Nat) :
    ((n * powNum 2 (F.quantum x) : Nat) : ℚ) / (F.interval x).den = (n : ℚ) / 4 * (2 : ℚ) ^ F.quantum x := by
  have hden : (0 : ℚ) < powDen 2 (F.quantum x) := by exact_mod_cast powDen_pos (by decide) _
  have hinterval : ((F.interval x).den : ℚ) = 4 * powDen 2 (F.quantum x) := by
    rw [FloatFormat.interval]; push_cast; rfl
  rw [hinterval, Nat.cast_mul, powNum_eq (by decide), Nat.cast_ofNat]
  field_simp

/-- The float itself. -/
theorem interval_center (F : FloatFormat) (x : Nat) : (F.interval x).center = F.magnitude x := by
  have hscaled := interval_scaled F x (4 * F.significand x)
  rw [RoundingInterval.center, FloatFormat.magnitude]
  refine hscaled.trans ?_
  push_cast
  ring

theorem interval_hi (F : FloatFormat) (x : Nat) :
    ((F.interval x).hi : ℚ) / (F.interval x).den = F.magnitude x + (2 : ℚ) ^ F.quantum x / 2 := by
  have hscaled := interval_scaled F x (4 * F.significand x + 2)
  rw [FloatFormat.magnitude]
  refine hscaled.trans ?_
  push_cast
  ring

include hF h0 hx

theorem significand_pos : 0 < F.significand x := by
  refine Nat.pos_of_ne_zero fun hz => ?_
  rw [significand_eq_zero_iff hF, Nat.mod_eq_of_lt (hx.trans (infinity_lt_signBit hF))] at hz
  omega

theorem magnitude_pred : F.magnitude x = F.magnitude (x - 1) + (2 : ℚ) ^ F.quantum (x - 1) := by
  have hsucc := magnitude_succ hF (x := x - 1) (by rw [Nat.sub_add_cancel h0]; exact hx.trans (infinity_lt_signBit hF))
  rwa [Nat.sub_add_cancel h0] at hsucc

/-- The lower end is halfway to the pattern before. -/
theorem interval_lo :
    ((F.interval x).lo : ℚ) / (F.interval x).den = (F.magnitude (x - 1) + F.magnitude x) / 2 := by
  have hsig := significand_pos hF h0 hx
  have hscaled := interval_scaled F x
    (4 * F.significand x - (if F.fracBits x = 0 ∧ 1 < F.expBits x then 1 else 2))
  have hpred := magnitude_pred hF h0 hx
  have hlow : F.magnitude x - (2 : ℚ) ^ F.quantum (x - 1) / 2 = (F.magnitude (x - 1) + F.magnitude x) / 2 := by
    linarith
  rw [← hlow, quantum_pred hF h0 (hx.trans (infinity_lt_signBit hF)), FloatFormat.magnitude]
  refine hscaled.trans ?_
  split
  · rw [Nat.cast_sub (by omega), zpow_sub_one₀ (by norm_num)]
    push_cast
    ring
  · rw [Nat.cast_sub (by omega)]
    push_cast
    ring

omit h0 in
/-- The upper end is halfway to the pattern after. -/
theorem interval_hi_eq :
    ((F.interval x).hi : ℚ) / (F.interval x).den = (F.magnitude x + F.magnitude (x + 1)) / 2 := by
  have hsign := infinity_lt_signBit hF
  rw [interval_hi, magnitude_succ hF (by omega)]
  ring

theorem interval_proper : (F.interval x).Proper := by
  have hsig := significand_pos hF h0 hx
  have hpow : 0 < powNum 2 (F.quantum x) := Nat.pow_pos (by decide)
  refine ⟨interval_den_pos F x, Nat.mul_pos ?_ hpow, Nat.mul_lt_mul_of_pos_right ?_ hpow,
    Nat.mul_lt_mul_of_pos_right (by omega) hpow⟩
  · split <;> omega
  · split <;> omega

omit h0 in
theorem interval_closed_iff : (F.interval x).closed = true ↔ x % 2 = 0 := by
  obtain ⟨t, hsplit, -⟩ := pattern_on_grid hF (hx.trans (infinity_lt_signBit hF))
  have heven := even_hidden hF
  have hclosed : (F.interval x).closed = true ↔ F.significand x % 2 = 0 := beq_iff_eq
  rw [hclosed]
  conv_rhs => rw [hsplit, Nat.add_mod, Nat.mul_mod, heven, mul_zero, Nat.zero_mod, zero_add, Nat.mod_mod]

theorem interval_holds_iff (v : ℚ) :
    (F.interval x).Holds v ↔
      ((F.magnitude (x - 1) + F.magnitude x) / 2 < v ∧ v < (F.magnitude x + F.magnitude (x + 1)) / 2) ∨
      (x % 2 = 0 ∧ (F.magnitude (x - 1) + F.magnitude x) / 2 ≤ v ∧
        v ≤ (F.magnitude x + F.magnitude (x + 1)) / 2) := by
  rw [RoundingInterval.Holds, interval_lo hF h0 hx, interval_hi_eq hF hx, interval_closed_iff hF hx]

omit h0 hx in
/-- Halfway past the largest finite pattern is the threshold of overflow. -/
theorem last_midpoint (hlast : x + 1 = F.infinity) :
    (F.magnitude x + F.magnitude (x + 1)) / 2 = F.overflowFrom := by
  have hsign := infinity_lt_signBit hF
  have hpos := hidden_pos F
  have hfour : 2 ^ 2 ≤ 2 ^ F.w := Nat.pow_le_pow_right (by decide) hF.two_le_w
  obtain ⟨last, hw⟩ : ∃ last, last + 3 = 2 ^ F.w := ⟨2 ^ F.w - 3, by omega⟩
  have hinf : F.infinity = last * F.hidden + 2 * F.hidden := by
    rw [infinity_eq, ← hw, ← add_mul]; rfl
  have hx : x = last * F.hidden + (2 * F.hidden - 1) := by omega
  have hnext : x + 1 = last * F.hidden + 2 * F.hidden := by omega
  have hmag : F.magnitude x = ((2 * F.hidden - 1 : Nat) : ℚ) * (2 : ℚ) ^ F.gridExp last := by
    rw [hx]
    exact magnitude_grid hF (by omega) (by omega) (.inr (by omega))
  have hend : F.magnitude (x + 1) = ((2 * F.hidden : Nat) : ℚ) * (2 : ℚ) ^ F.gridExp last := by
    rw [hnext]
    exact magnitude_grid hF (by omega) le_rfl (.inr (by omega))
  rw [overflowFrom_eq hF hw, hmag, hend, Nat.cast_sub (by omega)]
  push_cast
  ring

omit h0 hx in
theorem odd_of_last (hlast : x + 1 = F.infinity) : x % 2 = 1 := by
  have heven : F.infinity % 2 = 0 := by rw [infinity_eq, Nat.mul_mod, even_hidden hF, mul_zero, Nat.zero_mod]
  omega

/-- What rounds to a pattern is in its interval (R144). -/
theorem holds_of_isRounded {v : ℚ} (h : F.IsRounded v x) : (F.interval x).Holds v := by
  have hsign := infinity_lt_signBit hF
  have hbelow : v < F.overflowFrom := not_le.1 fun hge => hx.ne (h.1 hge)
  obtain ⟨-, hnear⟩ := h.2 hbelow
  have hpred := magnitude_lt hF (show x - 1 < x by omega) (hx.trans hsign)
  have hsucc := magnitude_lt hF (Nat.lt_succ_self x) (show x + 1 < 2 ^ (F.w + F.p - 1) by omega)
  obtain ⟨hlo, hloTie⟩ := hnear (x - 1) (by omega)
  rw [abs_sub_upper_le_iff hpred] at hlo
  have hhi : v ≤ (F.magnitude x + F.magnitude (x + 1)) / 2 ∧
      (v = (F.magnitude x + F.magnitude (x + 1)) / 2 → x % 2 = 0) := by
    rcases Nat.lt_or_eq_of_le (Nat.succ_le_of_lt hx) with hlt | hlast
    · obtain ⟨hle, htie⟩ := hnear (x + 1) hlt
      exact ⟨(abs_sub_lower_le_iff hsucc).1 hle,
        fun heq => (htie (abs_sub_eq_of_midpoint hsucc heq)).resolve_left (by omega)⟩
    · rw [last_midpoint hF hlast]
      exact ⟨hbelow.le, fun heq => absurd heq hbelow.ne⟩
  rw [interval_holds_iff hF h0 hx]
  rcases Nat.mod_two_eq_zero_or_one x with heven | hodd
  · exact .inr ⟨heven, hlo, hhi.1⟩
  · refine .inl ⟨lt_of_le_of_ne hlo fun heq => ?_, lt_of_le_of_ne hhi.1 fun heq => ?_⟩
    · have hparity := (hloTie (abs_sub_eq_of_midpoint hpred heq.symm).symm).resolve_left (by omega)
      omega
    · have hparity := hhi.2 heq
      omega

theorem lt_overflowFrom_of_holds {v : ℚ} (hv : (F.interval x).Holds v) : v < F.overflowFrom := by
  have hsign := infinity_lt_signBit hF
  rw [interval_holds_iff hF h0 hx] at hv
  rcases Nat.lt_or_eq_of_le (Nat.succ_le_of_lt hx) with hlt | hlast
  · have hsucc := magnitude_lt hF (Nat.lt_succ_self x) (show x + 1 < 2 ^ (F.w + F.p - 1) by omega)
    have hnext := magnitude_lt_overflowFrom hF hlt
    rw [Nat.succ_eq_add_one] at hnext
    rcases hv with ⟨-, hhi⟩ | ⟨-, -, hhi⟩ <;> linarith
  · have hodd := odd_of_last hF hlast
    rcases hv with ⟨-, hhi⟩ | ⟨heven, -⟩
    · exact hhi.trans_eq (last_midpoint hF hlast)
    · omega

/-- What is in the interval of a pattern rounds to it (R144). -/
theorem eq_of_isRounded_of_holds {v : ℚ} {y : Nat} (hv : (F.interval x).Holds v) (h : F.IsRounded v y) : y = x := by
  have hsign := infinity_lt_signBit hF
  obtain ⟨hy, hnear⟩ := h.2 (lt_overflowFrom_of_holds hF h0 hx hv)
  obtain ⟨hle, htie⟩ := hnear x hx
  rw [interval_holds_iff hF h0 hx] at hv
  rcases lt_trichotomy y x with hlt | heq | hgt
  · have hyx := magnitude_lt hF hlt (hx.trans hsign)
    have hpred := magnitude_le hF (show y ≤ x - 1 by omega) (by omega)
    rw [abs_sub_lower_le_iff hyx] at hle
    rcases hv with ⟨hlo, -⟩ | ⟨heven, hlo, -⟩
    · linarith
    · have hmag : F.magnitude y = F.magnitude (x - 1) := by linarith
      have hpattern := magnitude_injective hF (hy.trans hsign) (by omega) hmag
      have hparity := (htie (abs_sub_eq_of_midpoint hyx (by linarith))).resolve_left (by omega)
      omega
  · exact heq
  · have hxy := magnitude_lt hF hgt (hy.trans hsign)
    have hsucc := magnitude_le hF (show x + 1 ≤ y by omega) (hy.trans hsign)
    rw [abs_sub_upper_le_iff hxy] at hle
    rcases hv with ⟨-, hhi⟩ | ⟨heven, -, hhi⟩
    · linarith
    · have hmag : F.magnitude (x + 1) = F.magnitude y := by linarith
      have hpattern := magnitude_injective hF (by omega) (hy.trans hsign) hmag
      have hparity := (htie (abs_sub_eq_of_midpoint hxy (by linarith)).symm).resolve_left (by omega)
      omega

/-- A decimal rounds to a pattern exactly when it is inside the pattern's interval (R144). -/
theorem roundMagnitude_eq_iff_holds (m : Nat) (k : Int) :
    F.roundMagnitude (m * powNum 10 k) (powDen 10 k) = x ↔ (F.interval x).Holds (decimal m k) := by
  have hround := roundMagnitude_isRounded hF (m * powNum 10 k) (powDen_pos (b := 10) (by decide) k)
  rw [← decimal_eq_fraction] at hround
  refine ⟨fun heq => ?_, fun hv => eq_of_isRounded_of_holds hF h0 hx hv hround⟩
  rw [heq] at hround
  exact holds_of_isRounded hF h0 hx hround

/-! ### The search succeeds, and keeps R144 -/

omit h0 hx in
theorem two_zpow_quantum_ge (hx : x < 2 ^ (F.w + F.p - 1)) : (2 : ℚ) ^ F.gridExp 0 ≤ (2 : ℚ) ^ F.quantum x :=
  zpow_le_zpow_right₀ (by norm_num) (gridExp_zero_le_quantum hF hx)

/-- The search starts at the leading digit of the float. -/
theorem shortest_found {m : Nat} {k : Int} (h : F.shortest x = some (m, k)) :
    ∃ i m0 s, (F.interval x).Found (floorLog10 (F.interval x).mid (F.interval x).den) i m0 s m k := by
  have hI := interval_proper hF h0 hx
  obtain ⟨hlow, hhigh⟩ := floorLog10_spec (Nat.ne_of_gt (Nat.zero_lt_of_lt hI.lo_lt_mid)) hI.den_pos.ne'
  exact search_found hI hlow hhigh h

theorem two_zpow_quantum_pred_le : (2 : ℚ) ^ F.quantum (x - 1) ≤ (2 : ℚ) ^ F.quantum x := by
  refine zpow_le_zpow_right₀ (by norm_num) ?_
  rw [quantum_pred hF h0 (hx.trans (infinity_lt_signBit hF))]
  split <;> omega

/-- A number inside is at most half a last place away. -/
theorem bounds_of_holds {v : ℚ} (hv : (F.interval x).Holds v) :
    F.magnitude x - (2 : ℚ) ^ F.quantum x / 2 ≤ v ∧ v ≤ F.magnitude x + (2 : ℚ) ^ F.quantum x / 2 := by
  have hsign := infinity_lt_signBit hF
  have hpred := magnitude_pred hF h0 hx
  have hsucc := magnitude_succ hF (show x + 1 < 2 ^ (F.w + F.p - 1) by omega)
  have hplace := two_zpow_quantum_pred_le hF h0 hx
  rw [interval_holds_iff hF h0 hx] at hv
  rcases hv with ⟨hlo, hhi⟩ | ⟨-, hlo, hhi⟩
  · exact ⟨by linarith, by linarith⟩
  · exact ⟨by linarith, by linarith⟩

/-- The one tie that could leave an odd last digit does not occur: it would need a last place of at least `10^L`, so a
significand below 10 and thus a subnormal, but no subnormal is an odd multiple of `19 * 10^L / 2`, which has more factors
of five. -/
theorem no_tie_at_ten (h9 : 9 < F.hidden) (hneg : F.gridExp 0 < 0) {L : Int} :
    ¬(2 * (F.interval x).center = 19 * (10 : ℚ) ^ L ∧ (F.interval x).Holds (decimal 9 L) ∧
      (F.interval x).Holds (decimal 10 L)) := by
  rintro ⟨hcenter, hnine, hten⟩
  obtain ⟨hlo, -⟩ := bounds_of_holds hF h0 hx hnine
  obtain ⟨-, hhi⟩ := bounds_of_holds hF h0 hx hten
  have hplace : (10 : ℚ) ^ L ≤ (2 : ℚ) ^ F.quantum x := by
    rw [show (10 : Nat) = 9 + 1 from rfl, decimal_succ] at hhi
    linarith
  have hpos : (0 : ℚ) < (2 : ℚ) ^ F.quantum x := by positivity
  rw [interval_center, FloatFormat.magnitude] at hcenter
  have hsig : F.significand x ≤ 9 := by
    have hle : (2 * F.significand x : ℚ) ≤ 19 := by
      refine le_of_mul_le_mul_right ?_ hpos
      linarith
    have hnat : 2 * F.significand x ≤ 19 := by exact_mod_cast hle
    omega
  obtain ⟨t, -, hq, -, hlow⟩ := pattern_on_grid hF (hx.trans (infinity_lt_signBit hF))
  obtain rfl : t = 0 := hlow.resolve_right (by omega)
  obtain ⟨n, hn⟩ : ∃ n : Nat, F.quantum x = -(n : Int) := ⟨(-F.quantum x).toNat, by omega⟩
  have hL : L < 0 := by
    have hone : (10 : ℚ) ^ L < 10 ^ (0 : Int) :=
      hplace.trans_lt (by rw [zpow_zero]; exact zpow_lt_one_of_neg₀ (by norm_num) (by omega))
    exact (zpow_lt_zpow_iff_right₀ (by norm_num)).1 hone
  obtain ⟨l, hl⟩ : ∃ l : Nat, L = -((l + 1 : Nat) : Int) := ⟨(-L).toNat - 1, by omega⟩
  rw [hn, hl, zpow_neg, zpow_neg, zpow_natCast, zpow_natCast, ← div_eq_mul_inv, ← mul_div_assoc, ← div_eq_mul_inv,
    div_eq_div_iff (by positivity) (by positivity)] at hcenter
  have hnat : 2 * F.significand x * 10 ^ (l + 1) = 19 * 2 ^ n := by exact_mod_cast hcenter
  have hfive : 5 ∣ 19 * 2 ^ n := by
    rw [← hnat, pow_succ]
    exact Dvd.dvd.mul_left (Dvd.dvd.mul_left (by decide) _) _
  have hprime : Nat.Prime 5 := by norm_num
  rcases hprime.dvd_mul.1 hfive with h | h
  · exact absurd h (by decide)
  · exact absurd (hprime.dvd_of_dvd_pow h) (by decide)

/-- A search succeeds by the exponent `-K` at which a unit is less than half of the least last place. -/
theorem shortest_exists {K N : Nat} (hK : (10 : ℚ) ^ (-(K : Int)) < (2 : ℚ) ^ F.gridExp 0 / 2)
    (hN : (2 : ℚ) ^ (F.bias + 1) ≤ (10 : ℚ) ^ (N : Int)) (hbound : K + N ≤ shortestBound) :
    ∃ (m : Nat) (k : Int), F.shortest x = some (m, k) ∧ m ≠ 0 ∧ -(K : Int) ≤ k ∧
      decimal m k < (10 : ℚ) ^ (N : Int) := by
  have hI := interval_proper hF h0 hx
  have hplace := two_zpow_quantum_ge hF (hx.trans (infinity_lt_signBit hF))
  have hsig : (1 : ℚ) ≤ F.significand x := by exact_mod_cast significand_pos hF h0 hx
  have htop : F.overflowFrom < (2 : ℚ) ^ (F.bias + 1) := sub_lt_self _ (by positivity)
  obtain ⟨hlow, hhigh⟩ := floorLog10_spec (Nat.ne_of_gt (Nat.zero_lt_of_lt hI.lo_lt_mid)) hI.den_pos.ne'
  rw [← RoundingInterval.center, interval_center] at hlow hhigh
  generalize hL : floorLog10 (F.interval x).mid (F.interval x).den = L at hlow hhigh
  have hLN : L < N := by
    refine (zpow_lt_zpow_iff_right₀ (by norm_num : (1 : ℚ) < 10)).1 ?_
    linarith [magnitude_lt_overflowFrom hF hx]
  have hKL : -(K : Int) < L + 1 := by
    refine (zpow_lt_zpow_iff_right₀ (by norm_num : (1 : ℚ) < 10)).1 ?_
    have hunit : (2 : ℚ) ^ F.quantum x ≤ F.magnitude x := by
      rw [FloatFormat.magnitude]
      exact le_mul_of_one_le_left (by positivity) hsig
    linarith [show (0 : ℚ) < (2 : ℚ) ^ F.gridExp 0 by positivity]
  obtain ⟨i, hi⟩ : ∃ i : Nat, L - (i : Int) = -(K : Int) := ⟨(L + K).toNat, by omega⟩
  have hcandidate : (F.interval x).candidate (L - i) ≠ none := by
    rw [hi]
    refine candidate_ne_none hI ?_
    rw [interval_center, interval_hi]
    linarith
  obtain ⟨⟨m, k⟩, hr⟩ := search_isSome (n := shortestBound) (by omega) hcandidate
  have hshortest : F.shortest x = some (m, k) := by rw [FloatFormat.shortest, hL, hr]
  obtain ⟨i', m0, s, hfound⟩ := shortest_found hF h0 hx hshortest
  rw [hL] at hfound
  obtain ⟨n, hn⟩ := Option.ne_none_iff_exists'.1 hcandidate
  have hi' : i' ≤ i := not_lt.1 fun hlt => hfound.first i hlt n (candidate_some hI hn).holds
  have hholds : (F.interval x).Holds (decimal m k) := hfound.decimal_eq ▸ hfound.best.holds
  have hexp := hfound.exp
  refine ⟨m, k, hshortest, (pos_of_holds hI hholds).ne', by omega, ?_⟩
  exact (lt_overflowFrom_of_holds hF h0 hx hholds).trans (htop.trans_le hN)

end

/-- Settles O59: decimals inside the interval are those that round to the float, and the search takes the fewest digits
and of these the nearest. -/
theorem shortestDigitsRoundTrip : Obligations.ShortestDigitsRoundTrip := by
  intro F hmem x m k h0 hx hshortest
  have hF := usable_of_mem hmem
  have h9 : 9 < F.hidden := by fin_cases hmem <;> decide
  have hneg : F.gridExp 0 < 0 := by fin_cases hmem <;> decide
  have hI := interval_proper hF h0 hx
  obtain ⟨i, m0, s, hfound⟩ := shortest_found hF h0 hx hshortest
  have hholds : (F.interval x).Holds (decimal m k) := hfound.decimal_eq ▸ hfound.best.holds
  refine ⟨hfound.stripped, (roundMagnitude_eq_iff_holds hF h0 hx m k).2 hholds, fun m' k' hround => ?_⟩
  have hin := (roundMagnitude_eq_iff_holds hF h0 hx m' k').1 hround
  refine ⟨hfound.fewest hI hin, fun hlen => ?_⟩
  obtain ⟨hle, htie⟩ := hfound.nearest hI hin hlen
  rw [interval_center] at hle htie
  refine ⟨hle, fun heq => ?_⟩
  rcases htie heq with hsame | heven | hten
  · exact .inl hsame
  · exact .inr heven
  · rw [← interval_center] at hten
    exact absurd hten (no_tie_at_ten hF h0 hx h9 hneg)

/-! ### FROMF of a finite non-zero float -/

/-- The bits below the sign of a finite pattern are a pattern below infinity. -/
theorem mod_signBit_lt_infinity {F : FloatFormat} (hF : F.Usable) {x : Nat} (hE : F.expBits x ≠ 2 ^ F.w - 1) :
    x % 2 ^ (F.w + F.p - 1) < F.infinity := by
  have hlt : F.expBits x < 2 ^ F.w := Nat.mod_lt _ (Nat.two_pow_pos _)
  have hM : F.fracBits x < F.hidden := Nat.mod_lt _ (hidden_pos F)
  have hsplit : x % 2 ^ (F.w + F.p - 1) = F.fracBits x + F.hidden * F.expBits x := by
    rw [two_pow_signBit hF, mul_comm, Nat.mod_mul]; rfl
  rw [hsplit, infinity_eq, mul_comm]
  calc F.fracBits x + F.expBits x * F.hidden < (F.expBits x + 1) * F.hidden := by rw [add_mul, one_mul]; omega
    _ ≤ (2 ^ F.w - 1) * F.hidden := Nat.mul_le_mul_right _ (by omega)

/-- A finite non-zero pattern converts to its packed digits, of an exponent of at least `-K` and below `10^N`, where
`2^-g` is the least last place and `2^b` is above every finite number. -/
theorem fromFloat_digits {F : FloatFormat} (hF : F.Usable) {g b K N : Nat} (hg : F.gridExp 0 = -(g : Int))
    (hb : F.bias + 1 = b) (hK : 2 ^ (g + 1) < 10 ^ K) (hN : 2 ^ b ≤ 10 ^ N) (hbound : K + N ≤ shortestBound) {x : Nat}
    (hE : F.expBits x ≠ 2 ^ F.w - 1) (h0 : x % 2 ^ (F.w + F.p - 1) ≠ 0) :
    ∃ (m : Nat) (k : Int), F.shortest (x % 2 ^ (F.w + F.p - 1)) = some (m, k) ∧ m ≠ 0 ∧ -(K : Int) ≤ k ∧
      decimal m k < (10 : ℚ) ^ (N : Int) ∧
      fromFloat F x = pack (if F.negative x = true then -(m : Int) else m) k := by
  have hlow : (10 : ℚ) ^ (-(K : Int)) < (2 : ℚ) ^ F.gridExp 0 / 2 := by
    have hcast : (2 : ℚ) ^ (g + 1) < (10 : ℚ) ^ K := by exact_mod_cast hK
    rw [hg, zpow_neg, zpow_neg, zpow_natCast, zpow_natCast, inv_eq_one_div, inv_eq_one_div, div_div, ← pow_succ]
    exact one_div_lt_one_div_of_lt (by positivity) hcast
  have hhigh : (2 : ℚ) ^ (F.bias + 1) ≤ (10 : ℚ) ^ (N : Int) := by
    rw [hb, zpow_natCast, zpow_natCast]
    exact_mod_cast hN
  obtain ⟨m, k, hshortest, hm, hk, hlt⟩ :=
    shortest_exists hF (Nat.pos_of_ne_zero h0) (mod_signBit_lt_infinity hF hE) hlow hhigh hbound
  refine ⟨m, k, hshortest, hm, hk, hlt, ?_⟩
  rw [fromFloat_of_finite hE (mt (significand_eq_zero_iff hF x).1 h0), fromFinite, hshortest]

theorem digits32 {x : Nat} (hE : binary32.expBits x ≠ 2 ^ 8 - 1) (h0 : x % 2 ^ 31 ≠ 0) :
    ∃ (m : Nat) (k : Int), binary32.shortest (x % 2 ^ 31) = some (m, k) ∧ m ≠ 0 ∧ -46 ≤ k ∧
      decimal m k < (10 : ℚ) ^ (39 : Int) ∧
      fromFloat binary32 x = pack (if binary32.negative x = true then -(m : Int) else m) k :=
  fromFloat_digits usable_binary32 (g := 149) (b := 128) (K := 46) (N := 39) (by decide) (by decide)
    (by decide +kernel) (by decide +kernel) (by decide) hE h0

theorem digits64 {x : Nat} (hE : binary64.expBits x ≠ 2 ^ 11 - 1) (h0 : x % 2 ^ 63 ≠ 0) :
    ∃ (m : Nat) (k : Int), binary64.shortest (x % 2 ^ 63) = some (m, k) ∧ m ≠ 0 ∧ -324 ≤ k ∧
      decimal m k < (10 : ℚ) ^ (309 : Int) ∧
      fromFloat binary64 x = pack (if binary64.negative x = true then -(m : Int) else m) k :=
  fromFloat_digits usable_binary64 (g := 1074) (b := 1024) (K := 324) (N := 309) (by decide) (by decide)
    (by decide +kernel) (by decide +kernel) (by decide) hE h0

/-- The sign bit of a pattern of its format's width. -/
theorem negative_toNat {F : FloatFormat} {n : Nat} (hn : F.w + F.p = n) (h0 : 0 < n) (x : BitVec n) :
    F.negative x.toNat = x.msb := by
  have hx := x.isLt
  have hhalf : 2 ^ n = 2 * 2 ^ (n - 1) := by rw [← pow_succ', Nat.sub_add_cancel h0]
  have hlt : x.toNat / 2 ^ (n - 1) < 2 := Nat.div_lt_of_lt_mul (by omega)
  rw [FloatFormat.negative, hn, BitVec.msb_eq_decide, Nat.mod_eq_of_lt hlt, Bool.eq_iff_iff, beq_iff_eq,
    decide_eq_true_iff, ← Nat.one_le_div_iff (Nat.two_pow_pos _)]
  omega

/-- Settles O58: the digits of each format, and the sign bit as the top bit of the pattern. -/
theorem fromFloatPacksShortestDigits : Obligations.FromFloatPacksShortestDigits := by
  refine ⟨fun x s hE h0 => ?_, fun x s hE h0 => ?_⟩
  · have hexp : binary32.expBits x.toNat ≠ 2 ^ 8 - 1 := fun h =>
      hE (BitVec.eq_of_toNat_eq ((expBits_toNat (F := binary32) x).symm.trans h))
    have hmod : x.toNat % 2 ^ 31 ≠ 0 := fun h =>
      h0 (BitVec.eq_of_toNat_eq ((mod_signBit_toNat (F := binary32) x).symm.trans h))
    obtain ⟨m, k, hshortest, hm, -, -, hpack⟩ := digits32 hexp hmod
    refine ⟨m, k, hshortest, hm, ?_⟩
    rw [exec_fromf32, hpack, negative_toNat (F := binary32) (n := 32) rfl (by decide), exec_pack_eq_answerD]
  · have hexp : binary64.expBits x.toNat ≠ 2 ^ 11 - 1 := fun h =>
      hE (BitVec.eq_of_toNat_eq ((expBits_toNat (F := binary64) x).symm.trans h))
    have hmod : x.toNat % 2 ^ 63 ≠ 0 := fun h =>
      h0 (BitVec.eq_of_toNat_eq ((mod_signBit_toNat (F := binary64) x).symm.trans h))
    obtain ⟨m, k, hshortest, hm, -, -, hpack⟩ := digits64 hexp hmod
    refine ⟨m, k, hshortest, hm, ?_⟩
    rw [exec_fromf64, hpack, negative_toNat (F := binary64) (n := 64) rfl (by decide), exec_pack_eq_answerD]

end Sys2Proof.Machine
end

section
/-! Proofs about the flags over all operations (30_encoding.md R52, 60_exceptions.md R181, 10_state.md R30). -/

namespace Sys2Proof.Machine

/-! ### Answers with a flag that tells their word -/

/-- A flag goes with its word: OVF with `NAN` and UNF with `ZERO` (R31, R181). -/
def Answer.Tidy (p : Answer) : Prop :=
  p.f = FlagSet.none ∨ p = ⟨NAN, FlagSet.overflow⟩ ∨ p = ⟨ZERO, FlagSet.underflow⟩

/-- A tidy answer whose only NaN is the canonical one (R30). -/
structure Answer.Regular (p : Answer) : Prop where
  tidy : p.Tidy
  canonical : isnan p.w = true → p.w = NAN

theorem regular_NAN : Answer.Regular ⟨NAN, FlagSet.none⟩ := ⟨.inl rfl, fun _ => rfl⟩

theorem regular_overflow : Answer.Regular ⟨NAN, FlagSet.overflow⟩ := ⟨.inr (.inl rfl), fun _ => rfl⟩

theorem regular_underflow : Answer.Regular ⟨ZERO, FlagSet.underflow⟩ :=
  ⟨.inr (.inr rfl), fun h => by cases h⟩

theorem regular_of_not_isnan {w : Word} (h : isnan w = false) : Answer.Regular ⟨w, FlagSet.none⟩ :=
  ⟨.inl rfl, fun hn => by rw [h] at hn; cases hn⟩

theorem regular_ZERO : Answer.Regular ⟨ZERO, FlagSet.none⟩ := regular_of_not_isnan rfl

theorem pack_regular (c e : Int) : (pack c e).Regular := by
  obtain hp | hp | hp | ⟨w, hw, hp⟩ := pack_answer c e <;> rw [hp]
  · exact regular_ZERO
  · exact regular_overflow
  · exact regular_underflow
  · exact regular_of_not_isnan (not_isnan_of_isFinitePair hw)

/-! ### Every rule gives a regular answer -/

theorem addAligned_regular {hw : Word} (h : isnan hw = false) (hc he lc le : Int) :
    (addAligned hw hc he lc le).Regular := by
  unfold addAligned
  split
  · exact regular_of_not_isnan h
  · exact pack_regular _ _

theorem add_regular (a b : Word) : (add a b).Regular := by
  by_cases hn : isnan a = true ∨ isnan b = true
  · rw [add_of_isnan hn]; exact regular_NAN
  obtain ⟨ha, hb⟩ : isnan a = false ∧ isnan b = false := by simpa using hn
  rcases lt_trichotomy (expo a) (expo b) with h | h | h
  · rw [add_of_expo_gt ha hb h]; exact addAligned_regular hb _ _ _ _
  · rw [add_of_expo_eq ha hb h]
    split
    · exact regular_of_not_isnan (isnan_word_expo _ ha)
    · exact pack_regular _ _
  · rw [add_of_expo_lt ha hb h]; exact addAligned_regular ha _ _ _ _

/-- NEG sets no flag but OVF. -/
theorem neg_cases (b : Word) : (∃ w, neg b = ⟨w, FlagSet.none⟩ ∧ (isnan w = true → w = NAN)) ∨
    neg b = ⟨NAN, FlagSet.overflow⟩ := by
  cases hn : isnan b with
  | true => exact .inl ⟨NAN, neg_of_isnan hn, fun _ => rfl⟩
  | false =>
    by_cases hc : coef b = MINC
    · rw [neg_of_coef_eq_MINC hn hc]
      have hunf := pack_unf_eq_false (-MINC) (MINE_le_expo hn)
      obtain ⟨htidy, hcanonical⟩ := pack_regular (-MINC) (expo b)
      rcases htidy with hf | hp | hp
      · exact .inl ⟨_, congrArg (Answer.mk _) hf, hcanonical⟩
      · exact .inr hp
      · rw [hp] at hunf; cases hunf
    · obtain ⟨w, hw, hwn, -⟩ := neg_exact hn hc
      exact .inl ⟨w, hw, (regular_of_not_isnan hwn).canonical⟩

theorem neg_regular (b : Word) : (neg b).Regular := by
  rcases neg_cases b with ⟨w, hw, hcanonical⟩ | hw <;> rw [hw]
  · exact ⟨.inl rfl, hcanonical⟩
  · exact regular_overflow

theorem sub_regular (a b : Word) : (sub a b).Regular := by
  by_cases hn : isnan a = true ∨ isnan b = true
  · rw [sub_of_isnan hn]; exact regular_NAN
  obtain ⟨ha, hb⟩ : isnan a = false ∧ isnan b = false := by simpa using hn
  rcases neg_cases b with ⟨w, hw, -⟩ | hw
  · have hsub : sub a b = add a w := by
      rw [sub_of_not_isnan ha hb, hw]
      simp [FlagSet.union, FlagSet.none]
    rw [hsub]
    exact add_regular a w
  · rw [sub_of_neg_overflow ha hw]
    exact regular_overflow

theorem mulFinish_regular (p e d : Int) : (mulFinish p e d).Regular := by
  unfold mulFinish
  split
  · exact regular_overflow
  · split
    · exact regular_underflow
    · exact pack_regular _ _

theorem mul_regular (a b : Word) : (mul a b).Regular := by
  unfold mul
  split
  · exact regular_NAN
  · split
    · exact regular_ZERO
    · exact mulFinish_regular _ _ _

theorem divFinish_regular (q e : Int) : (divFinish q e).Regular := by
  rw [divFinish_eq]
  split
  · exact regular_overflow
  · split
    · exact regular_underflow
    · exact pack_regular _ _

theorem div_regular (a b : Word) : (div a b).Regular := by
  unfold div
  split
  · exact regular_NAN
  · split
    · exact regular_NAN
    · split
      · exact regular_ZERO
      · exact divFinish_regular _ _

theorem absWord_regular (a : Word) : (absWord a).Regular := by
  cases hn : isnan a with
  | true => rw [absWord_of_isnan hn]; exact regular_NAN
  | false => rw [absWord_of_not_isnan hn]; exact pack_regular _ _

/-- FLOOR sets no flag. -/
theorem floorWord_no_flag (a : Word) : (floorWord a).f = FlagSet.none := by
  cases hn : isnan a with
  | true => rw [floorWord_of_isnan hn]
  | false =>
    obtain ⟨w, hw, -⟩ := floorWord_exact hn
    rw [hw]

theorem ceilWord_no_flag (a : Word) : (ceilWord a).f = FlagSet.none := by
  cases hn : isnan a with
  | true => rw [ceilWord_of_isnan hn]
  | false =>
    obtain ⟨w, hw, -⟩ := ceilWord_exact hn
    rw [hw]

theorem floorWord_regular (a : Word) : (floorWord a).Regular := by
  cases hn : isnan a with
  | true => rw [floorWord_of_isnan hn]; exact regular_NAN
  | false =>
    obtain ⟨w, hw, hwn, -⟩ := floorWord_exact hn
    rw [hw]
    exact regular_of_not_isnan hwn

theorem ceilWord_regular (a : Word) : (ceilWord a).Regular := by
  cases hn : isnan a with
  | true => rw [ceilWord_of_isnan hn]; exact regular_NAN
  | false =>
    obtain ⟨w, hw, hwn, -⟩ := ceilWord_exact hn
    rw [hw]
    exact regular_of_not_isnan hwn

theorem roundWord_regular (a : Word) (t : Int) : (roundWord a t).Regular := by
  cases hn : isnan a with
  | true => rw [roundWord_of_isnan hn]; exact regular_NAN
  | false =>
    rcases le_or_gt t (expo a) with h | h
    · rw [roundWord_of_le hn h]; exact regular_of_not_isnan hn
    · rw [roundWord_of_gt hn h]; exact pack_regular _ _

theorem fromFinite_regular (F : FloatFormat) (σ : Bool) (x : Nat) : (fromFinite F σ x).Regular := by
  unfold fromFinite
  split
  · exact pack_regular _ _
  · exact regular_ZERO

theorem fromFloat_regular (F : FloatFormat) (x : Nat) : (fromFloat F x).Regular := by
  unfold fromFloat
  split
  · exact regular_NAN
  · exact regular_overflow
  · split
    · exact regular_ZERO
    · exact fromFinite_regular _ _ _

theorem fromInt_regular (v : Int) : (fromInt v).Regular := pack_regular _ _

/-! ### The answers of all operations -/

/-- The result type `D` is that of the DEC64 answers (R54). -/
theorem wordResult_iff (i : Instr) : wordResult i = (resultOf i).isLeft := by
  cases i <;> rfl

/-- Only RAW, opcode `0x11`, can answer anything but a regular answer (R30). -/
theorem resultOf_regular {i : Instr} {p : Answer} (h : resultOf i = .inl p) (hraw : (encode i).op ≠ 0x11#8) :
    p.Regular := by
  cases i with
  | raw c e => exact absurd rfl hraw
  | pack c e => cases h; exact pack_regular c e
  | add a b => cases h; exact add_regular a b
  | sub a b => cases h; exact sub_regular a b
  | neg a => cases h; exact neg_regular a
  | mul a b => cases h; exact mul_regular a b
  | div a b => cases h; exact div_regular a b
  | abs a => cases h; exact absWord_regular a
  | floor a => cases h; exact floorWord_regular a
  | ceil a => cases h; exact ceilWord_regular a
  | round a t => cases h; exact roundWord_regular a t
  | fromf32 x | fromf64 x => cases h; exact fromFloat_regular _ _
  | fromi8 v | fromi16 v | fromi32 v | fromi64 v | fromi128 v | fromu8 v | fromu16 v | fromu32 v | fromu64 v
  | fromu128 v => cases h; exact fromInt_regular v
  | coef a | expo a | isnan a | iszero a | eq a b | cmp a b | sign a | isint a | tof32 a | tof64 a | toi8 a | toi16 a
  | toi32 a | toi64 a | toi128 a | tou8 a | tou16 a | tou32 a | tou64 a | tou128 a => cases h

/-- Every DEC64 answer is tidy; RAW sets no flag of its own (R71). -/
theorem resultOf_tidy {i : Instr} {p : Answer} (h : resultOf i = .inl p) : p.Tidy := by
  by_cases hraw : (encode i).op = 0x11#8
  · cases i with
    | raw c e => cases h; exact .inl rfl
    | _ => cases hraw
  · exact (resultOf_regular h hraw).tidy

/-- The bundle of a tidy answer shows which of the three forms it has. -/
theorem wordFlags_of_tidy {p : Answer} (h : p.Tidy) :
    (p.f = FlagSet.none ∧ (wordFlags p = 0#4 ∨ wordFlags p = 1#4)) ∨
    (p = ⟨NAN, FlagSet.overflow⟩ ∧ wordFlags p = 3#4) ∨ (p = ⟨ZERO, FlagSet.underflow⟩ ∧ wordFlags p = 4#4) := by
  rcases h with hf | rfl | rfl
  · refine .inl ⟨hf, ?_⟩
    have hp : p = ⟨p.w, FlagSet.none⟩ := congrArg (Answer.mk p.w) hf
    rw [hp, wordFlags_none]
    split
    · exact .inr rfl
    · exact .inl rfl
  · exact .inr (.inl ⟨rfl, rfl⟩)
  · exact .inr (.inr ⟨rfl, rfl⟩)

theorem bundleOf_inl (p : Answer) : bundleOf (.inl p) = ⟨placeD p.w, wordFlags p⟩ := rfl

theorem bundleOf_inr (r : Port) : bundleOf (.inr r) = ⟨r, 0#4⟩ := rfl

/-- Settles O18: the answer of an unassigned opcode, a plain result, or one of the three forms of a tidy answer. -/
theorem flagBundlesThatOccur : Obligations.FlagBundlesThatOccur := by
  intro q
  by_cases hop : q.op ∈ assignedOpcodes
  · obtain ⟨i, hi⟩ := decode_ok_of_assigned hop
    rw [EXEC_of_decode hi]
    cases hresult : resultOf i with
    | inr r => simp [bundleOf_inr, hop]
    | inl p =>
      rw [bundleOf_inl]
      rcases wordFlags_of_tidy (resultOf_tidy hresult) with ⟨-, hf | hf⟩ | ⟨rfl, hf⟩ | ⟨rfl, hf⟩
      · simp [hf, hop]
      · simp [hf, hop]
      · rw [hf]
        exact ⟨by decide, fun _ => rfl, fun h => absurd h (by decide), fun h => absurd h (by decide),
          fun h => absurd hop h⟩
      · rw [hf]
        exact ⟨by decide, fun h => absurd h (by decide), fun _ => rfl, fun h => absurd h (by decide),
          fun h => absurd hop h⟩
  · rw [EXEC_of_not_assigned hop]
    exact ⟨by decide, fun _ => rfl, fun h => absurd h (by decide), fun _ => hop, fun _ => rfl⟩

/-- Settles O19: the two kinds of result. -/
theorem nanfReportsTheResultWord : Obligations.NanfReportsTheResultWord := by
  intro q i hi
  rw [EXEC_of_decode hi, wordResult_iff]
  cases hresult : resultOf i with
  | inl p =>
    obtain ⟨hnanf, -, -⟩ := flagBundle_bits false p.f.unf p.f.ovf (isnan p.w)
    exact ⟨fun _ => ⟨p.w, rfl, hnanf⟩, nofun⟩
  | inr r => exact ⟨nofun, fun _ => rfl⟩

/-- Settles O22: the port shows the word of a regular answer. -/
theorem onlyRawReturnsDenormalNan : Obligations.OnlyRawReturnsDenormalNan := by
  intro q i w hi hword hraw hport hn
  rw [wordResult_iff] at hword
  cases hresult : resultOf i with
  | inr r => rw [hresult] at hword; cases hword
  | inl p =>
    rw [EXEC_of_decode hi, hresult, bundleOf_inl] at hport
    obtain rfl : p.w = w := placeD_injective hport
    exact (resultOf_regular hresult (by rwa [encode_op_of_decode hi])).canonical hn

/-! ### Where PACK does not overflow -/

theorem packExponent_ovf_eq_false {c e : Int} (hc : inCoefRange c = true) (he : e ≤ MAXE) :
    (packExponent c e).f.ovf = false := by
  obtain ⟨-, -, hp⟩ | ⟨hlt, -⟩ | ⟨hlt, -⟩ | ⟨-, -, hp⟩ | ⟨-, -, hp⟩ := packExponent_cases hc e
  · rw [hp]; rfl
  · omega
  · omega
  · rw [hp]; rfl
  · rw [hp]; rfl

theorem pack_ovf_eq_false_of_inCoefRange {c e : Int} (hc : inCoefRange c = true) (he : e ≤ MAXE) :
    (pack c e).f.ovf = false := by
  by_cases h0 : c = 0
  · rw [h0, pack_zero]; rfl
  · rw [pack_of_inCoefRange h0 hc]
    exact packExponent_ovf_eq_false hc he

theorem inCoefRange_of_natAbs_lt_ten {c : Int} (h : c.natAbs < 10) : inCoefRange c = true := by
  rw [inCoefRange_iff]
  simp only [MINC, MAXC]
  omega

/-- A coefficient of at most `n` digits takes fewer than `n` lifts, and a second rounding one more, so with room for `n`
increments of the exponent PACK does not overflow. -/
theorem pack_ovf_eq_false {c e : Int} {n : Nat} (hc : c.natAbs < 10 ^ n) (he : e + n ≤ MAXE) :
    (pack c e).f.ovf = false := by
  cases hr : inCoefRange c with
  | true => exact pack_ovf_eq_false_of_inCoefRange hr (by omega)
  | false =>
    have hbig : 10 ^ 16 ≤ c.natAbs := by
      rw [not_inCoefRange_iff] at hr
      simp only [MINC, MAXC] at hr
      omega
    have hn : 16 < n := (Nat.pow_lt_pow_iff_right (by decide)).1 (hbig.trans_lt hc)
    have hdigit : inCoefRange (tdiv c (10 ^ (n - 1))) = true := by
      have habs : (tdiv c (10 ^ (n - 1))).natAbs < 10 := by
        rw [tdiv, Int.natAbs_tdiv, Int.natAbs_pow]
        refine Nat.div_lt_of_lt_mul ?_
        have hpow : 10 ^ n = 10 ^ (n - 1) * 10 := by rw [← pow_succ, Nat.sub_add_cancel (by omega)]
        exact hpow ▸ hc
      exact inCoefRange_of_natAbs_lt_ten habs
    obtain ⟨j, hj, hlift⟩ := exists_isLeastLift (by omega) hdigit
    have hround := liftRound_eq hlift e
    rw [if_pos (by omega)] at hround
    rw [pack_of_liftRound_some hr hround]
    cases hr1 : inCoefRange (roundQuotient c j) with
    | true => exact pack_ovf_eq_false_of_inCoefRange hr1 (by omega)
    | false =>
      obtain ⟨hmin, hmax, -⟩ := liftRound_bounds hr hround
      have hone : roundQuotient c j = MINC - 1 ∨ roundQuotient c j = MAXC + 1 := by
        rw [not_inCoefRange_iff] at hr1; omega
      have hlift1 : IsLeastLift (roundQuotient c j) 1 :=
        ⟨le_rfl, by rcases hone with h | h <;> rw [h] <;> decide, by omega⟩
      have hround1 := liftRound_eq hlift1 (e + j)
      rw [if_pos (by push_cast; omega)] at hround1
      rw [pack_of_liftRound_some hr1 hround1]
      exact pack_ovf_eq_false_of_inCoefRange (liftRound_again hone hround1).1 (by push_cast; omega)

/-! ### UNF and OVF by operation -/

theorem absWord_unf_eq_false (a : Word) : (absWord a).f.unf = false := by
  cases hn : isnan a with
  | true => rw [absWord_of_isnan hn]; rfl
  | false => rw [absWord_of_not_isnan hn]; exact pack_unf_eq_false _ (MINE_le_expo hn)

theorem roundWord_unf_eq_false (a : Word) (t : Int) : (roundWord a t).f.unf = false := by
  cases hn : isnan a with
  | true => rw [roundWord_of_isnan hn]; rfl
  | false =>
    rcases le_or_gt t (expo a) with h | h
    · rw [roundWord_of_le hn h]; rfl
    · rw [roundWord_of_gt hn h]
      exact pack_unf_eq_false _ ((MINE_le_expo hn).trans h.le)

/-- The quotient of ROUND is a coefficient: it has fewer digits than the operand's. -/
theorem inCoefRange_roundDrop (a : Word) {k : Nat} (hk : 1 ≤ k) : inCoefRange (roundDrop (coef a) k) = true := by
  have hnear := (roundDrop_nearest a hk).1
  have hb := coef_bounds a
  have hten : (10 : Int) ≤ 10 ^ k := by
    have hpow := pow_le_pow_right₀ (show (1 : Int) ≤ 10 by decide) hk
    simpa using hpow
  obtain ⟨h1, h2⟩ := abs_le.1 (show |coef a - roundDrop (coef a) k * 10 ^ k| ≤ 10 ^ k by
    have := abs_nonneg (coef a - roundDrop (coef a) k * 10 ^ k); omega)
  rw [inCoefRange_iff]
  simp only [MINC, MAXC] at hb ⊢
  constructor <;> nlinarith

theorem roundWord_ovf_eq_false (a : Word) {t : Int} (ht : t ≤ MAXE) : (roundWord a t).f.ovf = false := by
  cases hn : isnan a with
  | true => rw [roundWord_of_isnan hn]; rfl
  | false =>
    rcases le_or_gt t (expo a) with h | h
    · rw [roundWord_of_le hn h]; rfl
    · rw [roundWord_of_gt hn h]
      exact pack_ovf_eq_false_of_inCoefRange (inCoefRange_roundDrop a (by omega)) ht

/-- A from-integer operand of any of the ten widths lies in the range of `fromInt_eq_pack`. -/
theorem fromInt_no_flag {v : Int} (h1 : -(2 : Int) ^ 127 ≤ v) (h2 : v < (2 : Int) ^ 128) :
    (fromInt v).f.unf = false ∧ (fromInt v).f.ovf = false := by
  rw [fromInt_eq_pack h1 h2]
  exact ⟨pack_unf_eq_false v (by decide), pack_ovf_eq_false (n := 39) (by omega) (by decide)⟩

theorem bounds_of_signedFits {n : Nat} {v : Int} (hn : n ≤ 128) (h : signedFits n v = true) :
    -(2 : Int) ^ 127 ≤ v ∧ v < (2 : Int) ^ 128 := by
  obtain ⟨h1, h2⟩ := signedFits_iff.1 h
  have hpow : (2 : Int) ^ (n - 1) ≤ 2 ^ 127 := pow_le_pow_right₀ (by decide) (by omega)
  omega

theorem bounds_of_unsignedFits {n : Nat} {v : Int} (hn : n ≤ 128) (h : unsignedFits n v = true) :
    -(2 : Int) ^ 127 ≤ v ∧ v < (2 : Int) ^ 128 := by
  obtain ⟨h1, h2⟩ := unsignedFits_iff.1 h
  have hpow : (2 : Int) ^ n ≤ 2 ^ 128 := pow_le_pow_right₀ (by decide) hn
  omega

/-- FROMF32 of a pattern that is not infinite sets no flag of its own: its digits have an exponent of at least -46, and
its number is below `10^39`. -/
theorem fromFloat32_no_flag {x : Nat} (hfinite : binary32.expBits x ≠ 2 ^ 8 - 1) :
    (fromFloat binary32 x).f.unf = false ∧ (fromFloat binary32 x).f.ovf = false := by
  by_cases h0 : x % 2 ^ 31 = 0
  · rw [fromFloat_of_mod_eq_zero usable_binary32 h0]; exact ⟨rfl, rfl⟩
  obtain ⟨m, k, -, hm, hk, hlt, hpack⟩ := digits32 hfinite h0
  have hone : (1 : ℚ) ≤ m := by exact_mod_cast Nat.pos_of_ne_zero hm
  have hk39 : k < 39 := by
    refine (zpow_lt_zpow_iff_right₀ (by norm_num : (1 : ℚ) < 10)).1 (lt_of_le_of_lt ?_ hlt)
    exact le_mul_of_one_le_left (by positivity) hone
  obtain ⟨n, hn⟩ : ∃ n : Nat, (39 : Int) = k + n := ⟨(39 - k).toNat, by omega⟩
  have hdigits : m < 10 ^ n := by
    rw [hn, ten_zpow_add_natCast, decimal, mul_comm, mul_lt_mul_iff_right₀ (by positivity)] at hlt
    exact_mod_cast hlt
  rw [hpack]
  refine ⟨pack_unf_eq_false _ (by simp only [MINE]; omega), pack_ovf_eq_false (n := n) ?_ (by simp only [MAXE]; omega)⟩
  split
  · simpa using hdigits
  · simpa using hdigits

theorem fromFloat_unf_eq_false_32 (x : Nat) : (fromFloat binary32 x).f.unf = false := by
  by_cases hE : binary32.expBits x = 2 ^ 8 - 1
  · by_cases hM : binary32.fracBits x = 0
    · rw [fromFloat_of_infinite hE hM]; rfl
    · rw [fromFloat_of_nan hE hM]; rfl
  · exact (fromFloat32_no_flag hE).1

/-- Only an infinity overflows in FROMF32. -/
theorem infinite_of_fromFloat_ovf {x : BitVec 32} (h : (fromFloat binary32 x.toNat).f.ovf = true) :
    x.extractLsb' 0 31 = 0x7F800000#31 := by
  by_cases hE : binary32.expBits x.toNat = 2 ^ 8 - 1
  · by_cases hM : binary32.fracBits x.toNat = 0
    · have hsplit : x.toNat % 2 ^ 31 = binary32.fracBits x.toNat + 2 ^ 23 * binary32.expBits x.toNat :=
        Nat.mod_mul (a := 2 ^ 23) (b := 2 ^ 8)
      rw [hE, hM] at hsplit
      exact BitVec.eq_of_toNat_eq ((mod_signBit_toNat (F := binary32) x).symm.trans hsplit)
    · rw [fromFloat_of_nan hE hM] at h; cases h
  · rw [(fromFloat32_no_flag hE).2] at h; cases h

/-- The operations with a DEC64 result that never set UNF (R181). -/
theorem unf_eq_false_of_result {i : Instr} {p : Answer} (h : resultOf i = .inl p) (hwf : i.wellFormed = true)
    (hop : (encode i).op ∉ [0x10#8, 0x33#8, 0x34#8, 0x53#8]) : p.f.unf = false := by
  cases i with
  | pack c e => exact absurd (List.contains_iff_mem.1 rfl) hop
  | mul a b => exact absurd (List.contains_iff_mem.1 rfl) hop
  | div a b => exact absurd (List.contains_iff_mem.1 rfl) hop
  | fromf64 x => exact absurd (List.contains_iff_mem.1 rfl) hop
  | raw c e => cases h; rfl
  | add a b => cases h; exact add_unf_eq_false a b
  | sub a b => cases h; exact sub_unf_eq_false a b
  | neg a => cases h; exact neg_unf_eq_false a
  | abs a => cases h; exact absWord_unf_eq_false a
  | floor a => cases h; exact congrArg FlagSet.unf (floorWord_no_flag a)
  | ceil a => cases h; exact congrArg FlagSet.unf (ceilWord_no_flag a)
  | round a t => cases h; exact roundWord_unf_eq_false a t
  | fromf32 x => cases h; exact fromFloat_unf_eq_false_32 _
  | fromi8 v | fromi16 v | fromi32 v | fromi64 v | fromi128 v =>
    cases h
    obtain ⟨h1, h2⟩ := bounds_of_signedFits (by decide) hwf
    exact (fromInt_no_flag h1 h2).1
  | fromu8 v | fromu16 v | fromu32 v | fromu64 v | fromu128 v =>
    cases h
    obtain ⟨h1, h2⟩ := bounds_of_unsignedFits (by decide) hwf
    exact (fromInt_no_flag h1 h2).1
  | coef a | expo a | isnan a | iszero a | eq a b | cmp a b | sign a | isint a | tof32 a | tof64 a | toi8 a | toi16 a
  | toi32 a | toi64 a | toi128 a | tou8 a | tou16 a | tou32 a | tou64 a | tou128 a => cases h

/-- The operations with a DEC64 result that set OVF (R181). -/
theorem ovf_sources {i : Instr} {p : Answer} (h : resultOf i = .inl p) (hwf : i.wellFormed = true)
    (hovf : p.f.ovf = true) :
    (encode i).op ∈ [0x10#8, 0x30#8, 0x31#8, 0x32#8, 0x33#8, 0x34#8, 0x41#8, 0x53#8] ∨
    (∃ a t, i = .round a t ∧ MAXE < t) ∨ (∃ x, i = .fromf32 x ∧ x.extractLsb' 0 31 = 0x7F800000#31) := by
  cases i with
  | pack c e => exact .inl (List.contains_iff_mem.1 rfl)
  | add a b | sub a b | mul a b | div a b => exact .inl (List.contains_iff_mem.1 rfl)
  | neg a | abs a => exact .inl (List.contains_iff_mem.1 rfl)
  | fromf64 x => exact .inl (List.contains_iff_mem.1 rfl)
  | raw c e => cases h; cases hovf
  | floor a => cases h; rw [floorWord_no_flag] at hovf; cases hovf
  | ceil a => cases h; rw [ceilWord_no_flag] at hovf; cases hovf
  | round a t =>
    cases h
    refine .inr (.inl ⟨a, t, rfl, not_le.1 fun hle => ?_⟩)
    rw [roundWord_ovf_eq_false a hle] at hovf; cases hovf
  | fromf32 x => cases h; exact .inr (.inr ⟨x, rfl, infinite_of_fromFloat_ovf hovf⟩)
  | fromi8 v | fromi16 v | fromi32 v | fromi64 v | fromi128 v =>
    cases h
    obtain ⟨h1, h2⟩ := bounds_of_signedFits (by decide) hwf
    rw [(fromInt_no_flag h1 h2).2] at hovf; cases hovf
  | fromu8 v | fromu16 v | fromu32 v | fromu64 v | fromu128 v =>
    cases h
    obtain ⟨h1, h2⟩ := bounds_of_unsignedFits (by decide) hwf
    rw [(fromInt_no_flag h1 h2).2] at hovf; cases hovf
  | coef a | expo a | isnan a | iszero a | eq a b | cmp a b | sign a | isint a | tof32 a | tof64 a | toi8 a | toi16 a
  | toi32 a | toi64 a | toi128 a | tou8 a | tou16 a | tou32 a | tou64 a | tou128 a => cases h

/-- A bundle with a flag of the rule comes from a DEC64 answer with that flag. -/
theorem answer_of_flags {q : Request} {i : Instr} (hi : decode q = .ok i) (h : (EXEC q).flags ≠ 0#4) :
    ∃ p, resultOf i = .inl p ∧ (EXEC q).flags = wordFlags p := by
  rw [EXEC_of_decode hi] at h ⊢
  cases hresult : resultOf i with
  | inl p => exact ⟨p, rfl, rfl⟩
  | inr r => rw [hresult] at h; exact absurd rfl h

/-- Settles O20: bit 2 of the bundle is the UNF of the answer. -/
theorem underflowFlagOnlyFromFour : Obligations.UnderflowFlagOnlyFromFour := by
  intro q i hi hflags
  obtain ⟨p, hresult, hp⟩ := answer_of_flags hi (by rw [hflags]; decide)
  obtain ⟨-, -, hunf⟩ := flagBundle_bits false p.f.unf p.f.ovf (isnan p.w)
  rw [← wordFlags, ← hp, hflags] at hunf
  by_contra hop
  rw [unf_eq_false_of_result hresult (wellFormed_of_decode hi) (by rwa [encode_op_of_decode hi])] at hunf
  cases hunf

/-- Settles O21: bit 1 of the bundle is the OVF of the answer. -/
theorem overflowFlagOnlyWhereListed : Obligations.OverflowFlagOnlyWhereListed := by
  intro q i hi hflags
  obtain ⟨p, hresult, hp⟩ := answer_of_flags hi (by rw [hflags]; decide)
  obtain ⟨-, hovf, -⟩ := flagBundle_bits false p.f.unf p.f.ovf (isnan p.w)
  rw [← wordFlags, ← hp, hflags] at hovf
  rw [← encode_op_of_decode hi]
  exact ovf_sources hresult (wellFormed_of_decode hi) hovf.symm

end Sys2Proof.Machine
end
